-- ==== Sys2Proof/Word.lean ====
section
/-! DEFINITION. The two widths of the block: bytes and 16-bit words (00_scope.md R1). -/

namespace Sys2Proof

/-- A memory cell, a data register, SP, an operand byte: 8 bits (R1). -/
abbrev Byte := BitVec 8

/-- An address, and PC: 16 bits (R1). -/
abbrev Word := BitVec 16

end Sys2Proof
end

