-- ==== Sys2Proof/Config.lean ====
section
/-! DEFINITION. The parameters of a launch (00_scope.md R2; 70_reset_and_hazards.md R145). They are the only quantities
the spec leaves to whoever starts the block; every rule holds for every value of them. -/

namespace Sys2Proof

/-- A memory image: the cells that hold something else than what an unlisted cell reads as, by rising address. -/
abbrev Memory := List Host.Cell

/-- The launch parameters of R2: the power-on values of A, X and Y, the image the loader left, and CANDIDATE_OPCODES. -/
structure Launch where
  a0 : Byte
  x0 : Byte
  y0 : Byte
  mem0 : Memory
  candidateOpcodes : List Byte
deriving DecidableEq, Repr

/-- The launch that State.reset stands for. `candidateOpcodes` empty is the default R2 gives. The register values and
the empty image are the model's (DESIGN CHOICE, log entries 1 and 2). -/
def Launch.default : Launch :=
  { a0 := 0x00#8, x0 := 0x00#8, y0 := 0x00#8, mem0 := [], candidateOpcodes := [] }

end Sys2Proof
end

