-- ==== Sys2Proof/Machine/Bytes.lean ====
section
/-! DEFINITION. The byte-order, extension and bit helpers of the notation (00_scope.md section 5). -/

namespace Sys2Proof.Machine

/-- `w[15:8]`. -/
def hiByte (w : Word) : Byte := BitVec.ofNat 8 (w.toNat / 256)

/-- `w[7:0]`. -/
def loByte (w : Word) : Byte := BitVec.ofNat 8 w.toNat

/-- `hi:lo`, that is `hi * 256 + lo`. -/
def wordOf (hi lo : Byte) : Word := BitVec.ofNat 16 (hi.toNat * 256 + lo.toNat)

/-- `zext_16(b)`. -/
def zext16 (b : Byte) : Word := BitVec.ofNat 16 b.toNat

/-- `sext_8(b)`: the byte read as a signed number (30_encoding.md R52). -/
def sext8 (b : Byte) : Int := if b.toNat < 0x80 then (b.toNat : Int) else (b.toNat : Int) - 256

/-- A flag as the number 0 or 1. -/
def bitNat (f : Bool) : Nat := if f then 1 else 0

/-- `v[7]`. -/
def bit7 (v : Byte) : Bool := v.getLsbD 7

/-- `v[0]`. -/
def bit0 (v : Byte) : Bool := v.getLsbD 0

end Sys2Proof.Machine
end

