-- ==== Sys2Proof/Machine/Memory.lean ====
section
/-! DEFINITION. The memory array of 20_memory.md R34 as plain data: a list of (address, byte) pairs with strictly rising
addresses below 65536 and no pair that holds what an unlisted cell reads as. -/

namespace Sys2Proof.Machine

/-- What a cell reads as that the image does not list. The spec leaves the loader's image open (parameter mem0, R145);
any image can be listed. DESIGN CHOICE 0x00 (log entry 2), as 95_test_vectors.md chooses. -/
def Memory.unlisted : Byte := 0x00#8

/-- `mem[a]` (R30). -/
def Memory.readByte : Memory → Nat → Byte
  | [], _ => Memory.unlisted
  | (k, w) :: m, a => if k = a then w else Memory.readByte m a

/-- The pair a written byte leaves in the list: none where the byte is what an unlisted cell reads as. -/
def Memory.cellOf (a : Nat) (v : Byte) : Memory := if v = Memory.unlisted then [] else [(a, v)]

/-- `mem[a] <- v`, keeping the canonical form (R31). -/
def Memory.writeByte : Memory → Nat → Byte → Memory
  | [], a, v => Memory.cellOf a v
  | (k, w) :: m, a, v =>
    if k < a then (k, w) :: Memory.writeByte m a v
    else if k = a then Memory.cellOf a v ++ m
    else Memory.cellOf a v ++ (k, w) :: m

/-- The canonical form from address `lo` upwards. -/
def Memory.wfFrom : Nat → Memory → Bool
  | _, [] => true
  | lo, (k, w) :: m => decide (lo ≤ k) && decide (k < 65536) && decide (w ≠ Memory.unlisted) && Memory.wfFrom (k + 1) m

/-- The canonical form: equal memories are equal lists. -/
def Memory.wf (m : Memory) : Bool := Memory.wfFrom 0 m

end Sys2Proof.Machine
end

