-- ==== Sys2Proof/Machine/State.lean ====
section
/-! DEFINITION. The state of the block as one record (10_state.md R10), the reasons a step can stop, and the state after
reset (70_reset_and_hazards.md R140 to R145). -/

namespace Sys2Proof.Machine

/-- The seven stored status flags (10_state.md R16). Bit 5 of the status byte is not stored. -/
structure Flags where
  n : Bool
  v : Bool
  b : Bool
  d : Bool
  i : Bool
  z : Bool
  c : Bool
deriving DecidableEq, Repr

/-- The run status (10_state.md R22): running, halted by BRK, or faulted on the byte `op` fetched from address `pc`. -/
inductive RunStatus where
  | running
  | halted
  | faulted (op : Byte) (pc : Word)
deriving DecidableEq, Repr

/-- One write sent to the PPU register sink (10_state.md R23). -/
structure PpuWrite where
  reg : Word
  value : Byte
deriving DecidableEq, Repr

/-- One trace record (10_state.md R24): the opcode and PC before the fetch, then A, X, Y, SP, PC, the packed status and the
counter after the step. -/
structure TraceRecord where
  opcode : Byte
  pcBefore : Word
  a : Byte
  x : Byte
  y : Byte
  sp : Byte
  pc : Word
  p : Byte
  icount : Nat
deriving DecidableEq, Repr

/-- The state (10_state.md R10). `candidates` is the launch parameter CANDIDATE_OPCODES (00_scope.md R2), which no step
changes (log entry 3). -/
structure State where
  a : Byte
  x : Byte
  y : Byte
  sp : Byte
  pc : Word
  flags : Flags
  mem : Memory
  icount : Nat
  status : RunStatus
  ppuLog : List PpuWrite
  traceLog : List TraceRecord
  candidates : List Byte
deriving DecidableEq, Repr

/-- Why there is no step: the two stuck states of R62 and R123. No instruction raises one. -/
inductive Fault where
  /-- Raised by `step` alone, on a state whose status is Halted(BRK): no step is defined there (R62, R120). Safe. -/
  | haltedByBrk
  /-- Raised by `step` alone, on a state whose status is Faulted(IllegalOpcode, op, pc): no step is defined there (R62,
  R121). Safe. -/
  | illegalOpcode (op : Byte) (pc : Word)
deriving DecidableEq, Repr

/-- Why an instruction has no meaning in the model. -/
inductive Refusal where
  /-- Raised by an arm of `exec` whose instruction is not modelled yet; no arm is one. Safe. -/
  | notModelled (mnemonic : String)
deriving DecidableEq, Repr

/-- What a step or an instruction answers. -/
abbrev Result := Host.Outcome State Fault Refusal

/-- Write A. -/
def State.withA (s : State) (v : Byte) : State := { s with a := v }
/-- Write X. -/
def State.withX (s : State) (v : Byte) : State := { s with x := v }
/-- Write Y. -/
def State.withY (s : State) (v : Byte) : State := { s with y := v }
/-- Write SP. -/
def State.withSp (s : State) (v : Byte) : State := { s with sp := v }
/-- Write PC. -/
def State.withPc (s : State) (v : Word) : State := { s with pc := v }
/-- Write the flags. -/
def State.withFlags (s : State) (f : Flags) : State := { s with flags := f }
/-- Replace the memory array. -/
def State.withMem (s : State) (m : Memory) : State := { s with mem := m }
/-- Write the instruction counter. -/
def State.withIcount (s : State) (k : Nat) : State := { s with icount := k }
/-- Write the run status. -/
def State.withStatus (s : State) (r : RunStatus) : State := { s with status := r }
/-- Replace the PPU write log. -/
def State.withPpuLog (s : State) (l : List PpuWrite) : State := { s with ppuLog := l }
/-- Replace the trace log. -/
def State.withTraceLog (s : State) (l : List TraceRecord) : State := { s with traceLog := l }
/-- Replace the parameter CANDIDATE_OPCODES. -/
def State.withCandidates (s : State) (cs : List Byte) : State := { s with candidates := cs }

/-- The flags after reset: the packed status 0x24 (R142). -/
def Flags.afterReset : Flags :=
  { n := false, v := false, b := false, d := false, i := true, z := false, c := false }

/-- The launch state: `reset()` applied to the power-on state of the parameters (R145, R146; 92_eei_decisions.md D19).
SP, the flags, PC and the status have no value before it, so the model has no state before it (log entry 5). -/
def State.launch (p : Launch) : State where
  a := p.a0
  x := p.x0
  y := p.y0
  sp := 0xFD#8
  pc := wordOf (Memory.readByte p.mem0 0xFFFD) (Memory.readByte p.mem0 0xFFFC)
  flags := Flags.afterReset
  mem := p.mem0
  icount := 0
  status := .running
  ppuLog := []
  traceLog := []
  candidates := p.candidateOpcodes

/-- The machine right after reset, of the default launch (log entries 1, 2 and 3). -/
def State.reset : State := State.launch Launch.default

end Sys2Proof.Machine
end

