-- ==== Sys2Proof/Machine/Flags.lean ====
section
/-! DEFINITION. The status byte and every flag computation of the spec. -/

namespace Sys2Proof.Machine

/-- `Pack()` (10_state.md R18): bit 5 is always 1. -/
def pack (f : Flags) : Byte :=
  BitVec.ofNat 8 (bitNat f.n * 0x80 + bitNat f.v * 0x40 + 0x20 + bitNat f.b * 0x10 + bitNat f.d * 0x08
    + bitNat f.i * 0x04 + bitNat f.z * 0x02 + bitNat f.c * 0x01)

/-- `Unpack(b)` (10_state.md R19): bit 5 is ignored. -/
def unpack (b : Byte) : Flags where
  n := b.getLsbD 7
  v := b.getLsbD 6
  b := b.getLsbD 4
  d := b.getLsbD 3
  i := b.getLsbD 2
  z := b.getLsbD 1
  c := b.getLsbD 0

/-- `SetZN(v)` on the flags (10_state.md R17). -/
def Flags.setZN (f : Flags) (v : Byte) : Flags := { f with z := v == 0#8, n := bit7 v }

/-- Write C. -/
def Flags.withC (f : Flags) (c : Bool) : Flags := { f with c := c }
/-- Write V. -/
def Flags.withV (f : Flags) (v : Bool) : Flags := { f with v := v }
/-- Write I. -/
def Flags.withI (f : Flags) (i : Bool) : Flags := { f with i := i }
/-- Write D. -/
def Flags.withD (f : Flags) (d : Bool) : Flags := { f with d := d }

/-- The exact sum of ADC, `A + m + C` (42_arithmetic.md R82). -/
def adcSum (a m : Byte) (c : Bool) : Nat := a.toNat + m.toNat + bitNat c

/-- The result byte of ADC (R82). -/
def adcResult (a m : Byte) (c : Bool) : Byte := BitVec.ofNat 8 (adcSum a m c)

/-- The carry of ADC: `r > 0xFF` (R82). -/
def adcCarry (a m : Byte) (c : Bool) : Bool := decide (adcSum a m c > 0xFF)

/-- The overflow of ADC: `((~(A ^ m) & (A ^ r)) & 0x80) != 0` (R82). -/
def adcOverflow (a m : Byte) (c : Bool) : Bool :=
  (~~~(a ^^^ m) &&& (a ^^^ adcResult a m c)) &&& 0x80#8 != 0#8

/-- The exact difference of SBC, `A - m - (1 - C)` (42_arithmetic.md R83). -/
def sbcDiff (a m : Byte) (c : Bool) : Int := (a.toNat : Int) - m.toNat - (1 - bitNat c)

/-- The result byte of SBC: `r mod 256` (R83). -/
def sbcResult (a m : Byte) (c : Bool) : Byte := BitVec.ofInt 8 (sbcDiff a m c)

/-- The carry of SBC: `r >= 0`, no borrow (R83). -/
def sbcCarry (a m : Byte) (c : Bool) : Bool := decide (sbcDiff a m c ≥ 0)

/-- The overflow of SBC: `((A ^ r) & (A ^ m) & 0x80) != 0` (R83). -/
def sbcOverflow (a m : Byte) (c : Bool) : Bool :=
  ((a ^^^ sbcResult a m c) &&& (a ^^^ m)) &&& 0x80#8 != 0#8

/-- The flags after ADC (R82): C, V, then Z and N of the result. -/
def Flags.afterAdc (f : Flags) (a m : Byte) : Flags :=
  ((f.withC (adcCarry a m f.c)).withV (adcOverflow a m f.c)).setZN (adcResult a m f.c)

/-- The flags after SBC (R83): V, C, then Z and N of the result. -/
def Flags.afterSbc (f : Flags) (a m : Byte) : Flags :=
  ((f.withV (sbcOverflow a m f.c)).withC (sbcCarry a m f.c)).setZN (sbcResult a m f.c)

/-- The flags after CMP (43_logic_compare.md R87): C from the unsigned comparison, Z and N of the difference. -/
def Flags.afterCmp (f : Flags) (a m : Byte) : Flags :=
  (f.withC (decide (a.toNat ≥ m.toNat))).setZN (a - m)

/-- The result of ASL: `(v * 2) mod 256` (47_shift_incdec.md R104). -/
def aslResult (v : Byte) : Byte := BitVec.ofNat 8 (v.toNat * 2)

/-- The result of LSR: `v div 2` (R105). -/
def lsrResult (v : Byte) : Byte := BitVec.ofNat 8 (v.toNat / 2)

/-- The result of ROL: `((v * 2) + c0) mod 256` (R106). -/
def rolResult (v : Byte) (c0 : Bool) : Byte := BitVec.ofNat 8 (v.toNat * 2 + bitNat c0)

/-- The result of ROR: `(v div 2) + c0 * 0x80` (R107). -/
def rorResult (v : Byte) (c0 : Bool) : Byte := BitVec.ofNat 8 (v.toNat / 2 + bitNat c0 * 0x80)

end Sys2Proof.Machine
end

