-- ==== Sys2Proof/Machine/Ops.lean ====
section
/-! DEFINITION. The shared operations over registers and memory: the bus, the stack, the instruction-stream fetch, the two
halts, reset and the trace. The block has no trap entry and no return from one (60_exceptions.md R123): the two halts are
the only events, and `hostReset` is the only way out of them. -/

namespace Sys2Proof.Machine

/-- `SetZN(v)` (10_state.md R17). -/
def setZN (s : State) (v : Byte) : State := s.withFlags (s.flags.setZN v)

/-- `MemRead(addr, 1)` (20_memory.md R30). It reads the array everywhere, the PPU window included (R47). -/
def memRead (s : State) (addr : Word) : Byte := Memory.readByte s.mem addr.toNat

/-- Whether an address lies in the PPU register window, 0x2000 to 0x3FFF (20_memory.md R35). -/
def inPpuWindow (addr : Word) : Bool := decide (0x2000 ≤ addr.toNat) && decide (addr.toNat ≤ 0x3FFF)

/-- The PPU register an address of the window folds to: `0x2000 + (a mod 8)` (20_memory.md R33). -/
def ppuReg (addr : Word) : Word := BitVec.ofNat 16 (0x2000 + addr.toNat % 8)

/-- `MemWrite(addr, 1, v)` (20_memory.md R31): the PPU redirect of R32, or the store. -/
def memWrite (s : State) (addr : Word) (v : Byte) : State :=
  if inPpuWindow addr then s.withPpuLog (s.ppuLog ++ [⟨ppuReg addr, v⟩])
  else s.withMem (Memory.writeByte s.mem addr.toNat v)

/-- The stack cell that SP names: `0x0100 + SP` (10_state.md R14). -/
def stackAddr (sp : Byte) : Word := BitVec.ofNat 16 (0x0100 + sp.toNat)

/-- `Push(v)` (20_memory.md R36). -/
def push (s : State) (v : Byte) : State :=
  let s1 := memWrite s (stackAddr s.sp) v
  s1.withSp (s1.sp - 1#8)

/-- What `Pull()` leaves: SP one higher (20_memory.md R37). -/
def afterPull (s : State) : State := s.withSp (s.sp + 1#8)

/-- `Pull()` (20_memory.md R37): the byte at the new SP, and the state after. -/
def pull (s : State) : Byte × State := (memRead (afterPull s) (stackAddr (afterPull s).sp), afterPull s)

/-- `PushWord(w)` (20_memory.md R38): the high byte first. -/
def pushWord (s : State) (w : Word) : State := push (push s (hiByte w)) (loByte w)

/-- `PullWord()` (20_memory.md R39): the low byte first. -/
def pullWord (s : State) : Word × State :=
  let lo := pull s
  let hi := pull lo.2
  (wordOf hi.1 lo.1, hi.2)

/-- `FetchByte()` (40_dispatch.md R60). -/
def fetchByte (s : State) : Byte × State := (memRead s s.pc, s.withPc (s.pc + 1#16))

/-- `FetchWord()` (40_dispatch.md R61). -/
def fetchWord (s : State) : Word × State :=
  let lo := fetchByte s
  let hi := fetchByte lo.2
  (wordOf hi.1 lo.1, hi.2)

/-- The counter's tick at the start of a step (40_dispatch.md R63). -/
def tick (s : State) : State := s.withIcount (s.icount + 1)

/-- `halt BRK` (60_exceptions.md R120). -/
def haltBrk (s : State) : State := s.withStatus .halted

/-- `raise IllegalOpcode(op, pc0)` (60_exceptions.md R121). -/
def raiseIllegalOpcode (s : State) (op : Byte) (pc0 : Word) : State := s.withStatus (.faulted op pc0)

/-- The trace record of a step that ended in `s` (10_state.md R24). -/
def traceRecord (op : Byte) (pc0 : Word) (s : State) : TraceRecord :=
  { opcode := op, pcBefore := pc0, a := s.a, x := s.x, y := s.y, sp := s.sp, pc := s.pc, p := pack s.flags,
    icount := s.icount }

/-- The record appended at the end of a step (40_dispatch.md R66). -/
def appendTrace (op : Byte) (pc0 : Word) (s : State) : State := s.withTraceLog (s.traceLog ++ [traceRecord op pc0 s])

/-- `reset()` (70_reset_and_hazards.md R140): SP, the flags, PC from the vector, the status; nothing else (R144). -/
def hostReset (s : State) : State :=
  (((s.withSp 0xFD#8).withFlags (unpack 0x24#8)).withPc
    (wordOf (memRead s 0xFFFD#16) (memRead s 0xFFFC#16))).withStatus .running

/-- Bytes stored into the array itself at consecutive addresses (modulo 65536), as the loader does (10_state.md R27,
70_reset_and_hazards.md R146): no PPU redirect. -/
def storeBytes : Memory → Word → List Byte → Memory
  | m, _, [] => m
  | m, addr, b :: bs => storeBytes (Memory.writeByte m addr.toNat b) (addr + 1#16) bs

end Sys2Proof.Machine
end

