-- ==== Sys2Proof/Machine/Operands.lean ====
section
/-! DEFINITION. The addressing-mode resolver (40_dispatch.md R67 to R76), on operand bytes already fetched (R77). The
descriptors `None` and `Rel(d)` are never loaded or stored (R75, R76), so they are no operand here: an implied instruction
names its registers, and a branch takes its offset through `branchTarget`. -/

namespace Sys2Proof.Machine

/-- An operand that can be stored to: `Mem(ea)` or `Acc` (R76). -/
inductive Place where
  | mem (ea : Word)
  | acc
deriving DecidableEq, Repr

/-- An operand that can be loaded: `Imm(v)`, or a place (R75). -/
inductive Opnd where
  | imm (v : Byte)
  | place (p : Place)
deriving DecidableEq, Repr

/-- Zero page (R68): `ea = zext_16(z)`. -/
def resolveZp (z : Byte) : Place := .mem (zext16 z)

/-- Zero page,X (R69): `ea = (z + X) mod 256`. -/
def resolveZpx (s : State) (z : Byte) : Place := .mem (zext16 (z + s.x))

/-- Absolute (R70): `ea = a`. -/
def resolveAbs (addr : Word) : Place := .mem addr

/-- Absolute,X (R71): `ea = (a + X) mod 65536`. -/
def resolveAbsx (s : State) (addr : Word) : Place := .mem (addr + zext16 s.x)

/-- Relative (R74) when the branch is taken: `(PC + d) mod 65536` with `d = sext_8(off)` (44_branch.md). -/
def branchTarget (pc : Word) (off : Byte) : Word := BitVec.ofInt 16 ((pc.toNat : Int) + sext8 off)

/-- The byte at a place. -/
def loadPlace (s : State) : Place → Byte
  | .mem ea => memRead s ea
  | .acc => s.a

/-- `Load(opnd)` (R75). -/
def load (s : State) : Opnd → Byte
  | .imm v => v
  | .place p => loadPlace s p

/-- `Store(opnd, v)` (R76). -/
def store (s : State) (p : Place) (v : Byte) : State :=
  match p with
  | .mem ea => memWrite s ea v
  | .acc => s.withA v

end Sys2Proof.Machine
end

