-- ==== Sys2Proof/Machine/Arithmetic.lean ====
section
/-! DEFINITION. ADC and SBC (42_arithmetic.md). Binary only: D changes nothing. -/

namespace Sys2Proof.Machine

/-- ADC (R82): `r <- A + m + C`, C, V with the old A, `A <- r & 0xFF`, SetZN(A). -/
def opAdc (s : State) (o : Opnd) : State :=
  (s.withA (adcResult s.a (load s o) s.flags.c)).withFlags (s.flags.afterAdc s.a (load s o))

/-- SBC (R83): `r <- A - m - (1 - C)`, V with the old A, C, `A <- r mod 256`, SetZN(A). -/
def opSbc (s : State) (o : Opnd) : State :=
  (s.withA (sbcResult s.a (load s o) s.flags.c)).withFlags (s.flags.afterSbc s.a (load s o))

/-- ADC immediate (0x69). -/
def execAdcImm (v : Byte) (s : State) : Result := .next (opAdc s (.imm v))
/-- ADC zero page (0x65, candidate). -/
def execAdcZp (z : Byte) (s : State) : Result := .next (opAdc s (.place (resolveZp z)))
/-- ADC absolute (0x6D, candidate). -/
def execAdcAbs (addr : Word) (s : State) : Result := .next (opAdc s (.place (resolveAbs addr)))
/-- SBC immediate (0xE9). -/
def execSbcImm (v : Byte) (s : State) : Result := .next (opSbc s (.imm v))
/-- SBC zero page (0xE5, candidate). -/
def execSbcZp (z : Byte) (s : State) : Result := .next (opSbc s (.place (resolveZp z)))
/-- SBC absolute (0xED, candidate). -/
def execSbcAbs (addr : Word) (s : State) : Result := .next (opSbc s (.place (resolveAbs addr)))

end Sys2Proof.Machine
end

