-- ==== Sys2Proof/Machine/Branch.lean ====
section
/-! DEFINITION. BNE, BEQ and BPL (44_branch.md). PC already holds the address after the offset byte. -/

namespace Sys2Proof.Machine

/-- A branch: PC takes the target when the condition holds and stays otherwise (44_branch.md). -/
def opBranch (s : State) (taken : Bool) (off : Byte) : State :=
  if taken then s.withPc (branchTarget s.pc off) else s

/-- BNE (R88): taken when Z is 0. -/
def execBne (off : Byte) (s : State) : Result := .next (opBranch s (!s.flags.z) off)
/-- BEQ (R89): taken when Z is 1. -/
def execBeq (off : Byte) (s : State) : Result := .next (opBranch s s.flags.z off)
/-- BPL (R90): taken when N is 0. -/
def execBpl (off : Byte) (s : State) : Result := .next (opBranch s (!s.flags.n) off)

end Sys2Proof.Machine
end

