-- ==== Sys2Proof/Machine/Control.lean ====
section
/-! DEFINITION. JSR, RTS, JMP and BRK (45_control.md). PC already holds the address after the operand bytes. -/

namespace Sys2Proof.Machine

/-- JSR (R91): `PushWord((PC - 1) mod 65536); PC <- t`. -/
def execJsr (addr : Word) (s : State) : Result := .next ((pushWord s (s.pc - 1#16)).withPc addr)
/-- RTS (R92): `w <- PullWord(); PC <- (w + 1) mod 65536`. -/
def execRts (s : State) : Result := .next ((pullWord s).2.withPc ((pullWord s).1 + 1#16))
/-- JMP (R93): `PC <- t`. -/
def execJmp (addr : Word) (s : State) : Result := .next (s.withPc addr)
/-- BRK (R94): the halt of 60_exceptions.md R120, and nothing else. -/
def execBrk (s : State) : Result := .next (haltBrk s)

end Sys2Proof.Machine
end

