-- ==== Sys2Proof/Machine/FlagOps.lean ====
section
/-! DEFINITION. The flag instructions (48_flag_ops.md): each writes one flag and nothing else. -/

namespace Sys2Proof.Machine

/-- SEC (R110): `C <- 1`. -/
def execSec (s : State) : Result := .next (s.withFlags (s.flags.withC true))
/-- CLC (R111): `C <- 0`. -/
def execClc (s : State) : Result := .next (s.withFlags (s.flags.withC false))
/-- SEI (R112): `I <- 1`. -/
def execSei (s : State) : Result := .next (s.withFlags (s.flags.withI true))
/-- CLI (R113): `I <- 0`. -/
def execCli (s : State) : Result := .next (s.withFlags (s.flags.withI false))
/-- SED (R114): `D <- 1`. -/
def execSed (s : State) : Result := .next (s.withFlags (s.flags.withD true))
/-- CLD (R115): `D <- 0`. -/
def execCld (s : State) : Result := .next (s.withFlags (s.flags.withD false))
/-- CLV (R116): `V <- 0`. -/
def execClv (s : State) : Result := .next (s.withFlags (s.flags.withV false))

end Sys2Proof.Machine
end

