-- ==== Sys2Proof/Machine/LoadStore.lean ====
section
/-! DEFINITION. LDA and STA (41_load_store.md). -/

namespace Sys2Proof.Machine

/-- LDA (R80): `v <- Load(opnd); A <- v; SetZN(v)`. -/
def opLda (s : State) (o : Opnd) : State := setZN (s.withA (load s o)) (load s o)

/-- STA (R81): `Store(opnd, A)`. -/
def opSta (s : State) (p : Place) : State := store s p s.a

/-- LDA immediate (0xA9). -/
def execLdaImm (v : Byte) (s : State) : Result := .next (opLda s (.imm v))
/-- LDA zero page (0xA5, candidate). -/
def execLdaZp (z : Byte) (s : State) : Result := .next (opLda s (.place (resolveZp z)))
/-- LDA zero page,X (0xB5). -/
def execLdaZpx (z : Byte) (s : State) : Result := .next (opLda s (.place (resolveZpx s z)))
/-- LDA absolute (0xAD, candidate). -/
def execLdaAbs (addr : Word) (s : State) : Result := .next (opLda s (.place (resolveAbs addr)))
/-- STA zero page (0x85, candidate). -/
def execStaZp (z : Byte) (s : State) : Result := .next (opSta s (resolveZp z))
/-- STA absolute (0x8D). -/
def execStaAbs (addr : Word) (s : State) : Result := .next (opSta s (resolveAbs addr))
/-- STA absolute,X (0x9D). -/
def execStaAbsx (addr : Word) (s : State) : Result := .next (opSta s (resolveAbsx s addr))

end Sys2Proof.Machine
end

