-- ==== Sys2Proof/Machine/LogicCompare.lean ====
section
/-! DEFINITION. AND, ORA, EOR and CMP (43_logic_compare.md). -/

namespace Sys2Proof.Machine

/-- AND (R84): `A <- A & m; SetZN(A)`. -/
def opAnd (s : State) (o : Opnd) : State := setZN (s.withA (s.a &&& load s o)) (s.a &&& load s o)

/-- ORA (R85): `A <- A | m; SetZN(A)`. -/
def opOra (s : State) (o : Opnd) : State := setZN (s.withA (s.a ||| load s o)) (s.a ||| load s o)

/-- EOR (R86): `A <- A ^ m; SetZN(A)`. -/
def opEor (s : State) (o : Opnd) : State := setZN (s.withA (s.a ^^^ load s o)) (s.a ^^^ load s o)

/-- CMP (R87): C from the unsigned comparison, SetZN of the difference; A is not written. -/
def opCmp (s : State) (o : Opnd) : State := s.withFlags (s.flags.afterCmp s.a (load s o))

/-- AND immediate (0x29, candidate). -/
def execAndImm (v : Byte) (s : State) : Result := .next (opAnd s (.imm v))
/-- AND zero page (0x25, candidate). -/
def execAndZp (z : Byte) (s : State) : Result := .next (opAnd s (.place (resolveZp z)))
/-- AND absolute (0x2D, candidate). -/
def execAndAbs (addr : Word) (s : State) : Result := .next (opAnd s (.place (resolveAbs addr)))
/-- ORA immediate (0x09, candidate). -/
def execOraImm (v : Byte) (s : State) : Result := .next (opOra s (.imm v))
/-- ORA zero page (0x05, candidate). -/
def execOraZp (z : Byte) (s : State) : Result := .next (opOra s (.place (resolveZp z)))
/-- ORA absolute (0x0D, candidate). -/
def execOraAbs (addr : Word) (s : State) : Result := .next (opOra s (.place (resolveAbs addr)))
/-- EOR immediate (0x49, candidate). -/
def execEorImm (v : Byte) (s : State) : Result := .next (opEor s (.imm v))
/-- EOR zero page (0x45, candidate). -/
def execEorZp (z : Byte) (s : State) : Result := .next (opEor s (.place (resolveZp z)))
/-- EOR absolute (0x4D, candidate). -/
def execEorAbs (addr : Word) (s : State) : Result := .next (opEor s (.place (resolveAbs addr)))
/-- CMP immediate (0xC9, candidate). -/
def execCmpImm (v : Byte) (s : State) : Result := .next (opCmp s (.imm v))
/-- CMP zero page (0xC5, candidate). -/
def execCmpZp (z : Byte) (s : State) : Result := .next (opCmp s (.place (resolveZp z)))
/-- CMP absolute (0xCD, candidate). -/
def execCmpAbs (addr : Word) (s : State) : Result := .next (opCmp s (.place (resolveAbs addr)))

end Sys2Proof.Machine
end

