-- ==== Sys2Proof/Machine/ShiftIncDec.lean ====
section
/-! DEFINITION. The shifts, rotates, INC and DEC (47_shift_incdec.md): one load, one store of the same place (40_dispatch.md R77). -/

namespace Sys2Proof.Machine

/-- `Store(opnd, r); SetZN(r)`, the end of every instruction of this file. -/
def storeZN (s : State) (p : Place) (r : Byte) : State := setZN (store s p r) r

/-- Write C. -/
def setC (s : State) (c : Bool) : State := s.withFlags (s.flags.withC c)

/-- ASL (R104). -/
def opAsl (s : State) (p : Place) : State := storeZN (setC s (bit7 (loadPlace s p))) p (aslResult (loadPlace s p))

/-- LSR (R105). -/
def opLsr (s : State) (p : Place) : State := storeZN (setC s (bit0 (loadPlace s p))) p (lsrResult (loadPlace s p))

/-- ROL (R106): the vacated bit is the carry before. -/
def opRol (s : State) (p : Place) : State :=
  storeZN (setC s (bit7 (loadPlace s p))) p (rolResult (loadPlace s p) s.flags.c)

/-- ROR (R107): the vacated bit is the carry before. -/
def opRor (s : State) (p : Place) : State :=
  storeZN (setC s (bit0 (loadPlace s p))) p (rorResult (loadPlace s p) s.flags.c)

/-- INC (R108): no carry effect. -/
def opInc (s : State) (p : Place) : State := storeZN s p (loadPlace s p + 1#8)

/-- DEC (R109): no carry effect. -/
def opDec (s : State) (p : Place) : State := storeZN s p (loadPlace s p - 1#8)

/-- ASL accumulator (0x0A). -/
def execAslAcc (s : State) : Result := .next (opAsl s .acc)
/-- ASL zero page (0x06). -/
def execAslZp (z : Byte) (s : State) : Result := .next (opAsl s (resolveZp z))
/-- LSR accumulator (0x4A). -/
def execLsrAcc (s : State) : Result := .next (opLsr s .acc)
/-- LSR zero page (0x46). -/
def execLsrZp (z : Byte) (s : State) : Result := .next (opLsr s (resolveZp z))
/-- ROL accumulator (0x2A). -/
def execRolAcc (s : State) : Result := .next (opRol s .acc)
/-- ROL zero page (0x26). -/
def execRolZp (z : Byte) (s : State) : Result := .next (opRol s (resolveZp z))
/-- ROR accumulator (0x6A). -/
def execRorAcc (s : State) : Result := .next (opRor s .acc)
/-- ROR zero page (0x66). -/
def execRorZp (z : Byte) (s : State) : Result := .next (opRor s (resolveZp z))
/-- INC zero page (0xE6). -/
def execIncZp (z : Byte) (s : State) : Result := .next (opInc s (resolveZp z))
/-- DEC zero page (0xC6). -/
def execDecZp (z : Byte) (s : State) : Result := .next (opDec s (resolveZp z))

end Sys2Proof.Machine
end

