-- ==== Sys2Proof/Machine/StackTransfer.lean ====
section
/-! DEFINITION. The stack instructions and the register transfers (46_stack_transfer.md). -/

namespace Sys2Proof.Machine

/-- PHA (R95): `Push(A)`. -/
def execPha (s : State) : Result := .next (push s s.a)
/-- PLA (R96): `v <- Pull(); A <- v; SetZN(v)`. -/
def execPla (s : State) : Result := .next (setZN ((pull s).2.withA (pull s).1) (pull s).1)
/-- PHP (R97): `Push(Pack() | 0x10)`; the stored B is not written. -/
def execPhp (s : State) : Result := .next (push s (pack s.flags ||| 0x10#8))
/-- PLP (R98): `b <- Pull(); Unpack(b)`; B is stored from bit 4 (90_conflicts.md C4). -/
def execPlp (s : State) : Result := .next ((pull s).2.withFlags (unpack (pull s).1))
/-- TXA (R99): `A <- X; SetZN(A)`. -/
def execTxa (s : State) : Result := .next (setZN (s.withA s.x) s.x)
/-- TYA (R100): `A <- Y; SetZN(A)`. -/
def execTya (s : State) : Result := .next (setZN (s.withA s.y) s.y)
/-- TAX (R101): `X <- A; SetZN(X)`. -/
def execTax (s : State) : Result := .next (setZN (s.withX s.a) s.a)
/-- TAY (R102): `Y <- A; SetZN(Y)`. -/
def execTay (s : State) : Result := .next (setZN (s.withY s.a) s.a)
/-- TXS (R103): `SP <- X`; no flag. -/
def execTxs (s : State) : Result := .next (s.withSp s.x)

end Sys2Proof.Machine
end

