-- ==== Sys2Proof/Syntax.lean ====
section
/-! DEFINITION. The instruction set as syntax: one constructor per row of spec/opcode_table.json (30_encoding.md R50 to R53).
An operand is held as its bytes say it; what it addresses is settled when the instruction runs (40_dispatch.md R67 to R74). -/

namespace Sys2Proof

/-- The eight instruction formats (30_encoding.md R51). -/
inductive Format where
  | imp | acc | imm | zp | zpx | abs | absx | rel
deriving DecidableEq, Repr

/-- Whether the source names a row's mnemonic and mode together, or the spec chose the mode (30_encoding.md R53). -/
inductive Tier where
  | attested | candidate
deriving DecidableEq, Repr

/-- The 37 mnemonics of the opcode table. -/
inductive Mnemonic where
  | brk | ora | asl | php | bpl | clc | jsr | and | rol | plp
  | sec | eor | lsr | pha | jmp | cli | rts | adc | ror | pla
  | sei | sta | txa | tya | txs | lda | tay | tax | clv | cmp
  | dec | bne | cld | sbc | inc | beq | sed
deriving DecidableEq, Repr

/-- The instructions. `v` is an immediate byte, `z` a zero-page address byte, `addr` a 16-bit address, `off` a branch
offset byte, as fetched (R52). -/
inductive Instr where
  /-- 0x00: BRK implied (R94). -/
  | brk
  /-- 0x05: ORA zero page, candidate (R85). -/
  | oraZp (z : Byte)
  /-- 0x06: ASL zero page (R104). -/
  | aslZp (z : Byte)
  /-- 0x08: PHP implied (R97). -/
  | php
  /-- 0x09: ORA immediate, candidate (R85). -/
  | oraImm (v : Byte)
  /-- 0x0A: ASL accumulator (R104). -/
  | aslAcc
  /-- 0x0D: ORA absolute, candidate (R85). -/
  | oraAbs (addr : Word)
  /-- 0x10: BPL relative (R90). -/
  | bpl (off : Byte)
  /-- 0x18: CLC implied (R111). -/
  | clc
  /-- 0x20: JSR absolute (R91). -/
  | jsr (addr : Word)
  /-- 0x25: AND zero page, candidate (R84). -/
  | andZp (z : Byte)
  /-- 0x26: ROL zero page (R106). -/
  | rolZp (z : Byte)
  /-- 0x28: PLP implied (R98). -/
  | plp
  /-- 0x29: AND immediate, candidate (R84). -/
  | andImm (v : Byte)
  /-- 0x2A: ROL accumulator (R106). -/
  | rolAcc
  /-- 0x2D: AND absolute, candidate (R84). -/
  | andAbs (addr : Word)
  /-- 0x38: SEC implied (R110). -/
  | sec
  /-- 0x45: EOR zero page, candidate (R86). -/
  | eorZp (z : Byte)
  /-- 0x46: LSR zero page (R105). -/
  | lsrZp (z : Byte)
  /-- 0x48: PHA implied (R95). -/
  | pha
  /-- 0x49: EOR immediate, candidate (R86). -/
  | eorImm (v : Byte)
  /-- 0x4A: LSR accumulator (R105). -/
  | lsrAcc
  /-- 0x4C: JMP absolute (R93). -/
  | jmp (addr : Word)
  /-- 0x4D: EOR absolute, candidate (R86). -/
  | eorAbs (addr : Word)
  /-- 0x58: CLI implied (R113). -/
  | cli
  /-- 0x60: RTS implied (R92). -/
  | rts
  /-- 0x65: ADC zero page, candidate (R82). -/
  | adcZp (z : Byte)
  /-- 0x66: ROR zero page (R107). -/
  | rorZp (z : Byte)
  /-- 0x68: PLA implied (R96). -/
  | pla
  /-- 0x69: ADC immediate (R82). -/
  | adcImm (v : Byte)
  /-- 0x6A: ROR accumulator (R107). -/
  | rorAcc
  /-- 0x6D: ADC absolute, candidate (R82). -/
  | adcAbs (addr : Word)
  /-- 0x78: SEI implied (R112). -/
  | sei
  /-- 0x85: STA zero page, candidate (R81). -/
  | staZp (z : Byte)
  /-- 0x8A: TXA implied (R99). -/
  | txa
  /-- 0x8D: STA absolute (R81). -/
  | staAbs (addr : Word)
  /-- 0x98: TYA implied (R100). -/
  | tya
  /-- 0x9A: TXS implied (R103). -/
  | txs
  /-- 0x9D: STA absolute,X (R81). -/
  | staAbsx (addr : Word)
  /-- 0xA5: LDA zero page, candidate (R80). -/
  | ldaZp (z : Byte)
  /-- 0xA8: TAY implied (R102). -/
  | tay
  /-- 0xA9: LDA immediate (R80). -/
  | ldaImm (v : Byte)
  /-- 0xAA: TAX implied (R101). -/
  | tax
  /-- 0xAD: LDA absolute, candidate (R80). -/
  | ldaAbs (addr : Word)
  /-- 0xB5: LDA zero page,X (R80). -/
  | ldaZpx (z : Byte)
  /-- 0xB8: CLV implied (R116). -/
  | clv
  /-- 0xC5: CMP zero page, candidate (R87). -/
  | cmpZp (z : Byte)
  /-- 0xC6: DEC zero page (R109). -/
  | decZp (z : Byte)
  /-- 0xC9: CMP immediate, candidate (R87). -/
  | cmpImm (v : Byte)
  /-- 0xCD: CMP absolute, candidate (R87). -/
  | cmpAbs (addr : Word)
  /-- 0xD0: BNE relative (R88). -/
  | bne (off : Byte)
  /-- 0xD8: CLD implied (R115). -/
  | cld
  /-- 0xE5: SBC zero page, candidate (R83). -/
  | sbcZp (z : Byte)
  /-- 0xE6: INC zero page (R108). -/
  | incZp (z : Byte)
  /-- 0xE9: SBC immediate (R83). -/
  | sbcImm (v : Byte)
  /-- 0xED: SBC absolute, candidate (R83). -/
  | sbcAbs (addr : Word)
  /-- 0xF0: BEQ relative (R89). -/
  | beq (off : Byte)
  /-- 0xF8: SED implied (R114). -/
  | sed
deriving DecidableEq, Repr

/-- What follows an opcode byte in the instruction stream: nothing, one byte, or one little-endian word (R50 to R52),
and the instruction it then makes. -/
inductive Shape where
  | bare (i : Instr)
  | byte (mk : Byte → Instr)
  | word (mk : Word → Instr)

/-- One row of the opcode table (R53). -/
structure Row where
  opcode : Byte
  mnemonic : Mnemonic
  format : Format
  tier : Tier
  shape : Shape

end Sys2Proof
end

