-- ==== Sys2Proof/Machine/OpcodeTable.lean ====
section
/-! DEFINITION. The opcode table of the spec (30_encoding.md R53, section 3; spec/opcode_table.json), read two ways:
by byte, for the decoder, and by instruction, for the encoder. -/

namespace Sys2Proof

/-- The rows with bytes 0x00 to 0x38. -/
def rows00to38 : List Row :=
  [⟨0x00#8, .brk, .imp, .attested, .bare .brk⟩,
   ⟨0x05#8, .ora, .zp, .candidate, .byte .oraZp⟩,
   ⟨0x06#8, .asl, .zp, .attested, .byte .aslZp⟩,
   ⟨0x08#8, .php, .imp, .attested, .bare .php⟩,
   ⟨0x09#8, .ora, .imm, .candidate, .byte .oraImm⟩,
   ⟨0x0A#8, .asl, .acc, .attested, .bare .aslAcc⟩,
   ⟨0x0D#8, .ora, .abs, .candidate, .word .oraAbs⟩,
   ⟨0x10#8, .bpl, .rel, .attested, .byte .bpl⟩,
   ⟨0x18#8, .clc, .imp, .attested, .bare .clc⟩,
   ⟨0x20#8, .jsr, .abs, .attested, .word .jsr⟩,
   ⟨0x25#8, .and, .zp, .candidate, .byte .andZp⟩,
   ⟨0x26#8, .rol, .zp, .attested, .byte .rolZp⟩,
   ⟨0x28#8, .plp, .imp, .attested, .bare .plp⟩,
   ⟨0x29#8, .and, .imm, .candidate, .byte .andImm⟩,
   ⟨0x2A#8, .rol, .acc, .attested, .bare .rolAcc⟩,
   ⟨0x2D#8, .and, .abs, .candidate, .word .andAbs⟩,
   ⟨0x38#8, .sec, .imp, .attested, .bare .sec⟩]

/-- The rows with bytes 0x45 to 0x78. -/
def rows45to78 : List Row :=
  [⟨0x45#8, .eor, .zp, .candidate, .byte .eorZp⟩,
   ⟨0x46#8, .lsr, .zp, .attested, .byte .lsrZp⟩,
   ⟨0x48#8, .pha, .imp, .attested, .bare .pha⟩,
   ⟨0x49#8, .eor, .imm, .candidate, .byte .eorImm⟩,
   ⟨0x4A#8, .lsr, .acc, .attested, .bare .lsrAcc⟩,
   ⟨0x4C#8, .jmp, .abs, .attested, .word .jmp⟩,
   ⟨0x4D#8, .eor, .abs, .candidate, .word .eorAbs⟩,
   ⟨0x58#8, .cli, .imp, .attested, .bare .cli⟩,
   ⟨0x60#8, .rts, .imp, .attested, .bare .rts⟩,
   ⟨0x65#8, .adc, .zp, .candidate, .byte .adcZp⟩,
   ⟨0x66#8, .ror, .zp, .attested, .byte .rorZp⟩,
   ⟨0x68#8, .pla, .imp, .attested, .bare .pla⟩,
   ⟨0x69#8, .adc, .imm, .attested, .byte .adcImm⟩,
   ⟨0x6A#8, .ror, .acc, .attested, .bare .rorAcc⟩,
   ⟨0x6D#8, .adc, .abs, .candidate, .word .adcAbs⟩,
   ⟨0x78#8, .sei, .imp, .attested, .bare .sei⟩]

/-- The rows with bytes 0x85 to 0xB8. -/
def rows85toB8 : List Row :=
  [⟨0x85#8, .sta, .zp, .candidate, .byte .staZp⟩,
   ⟨0x8A#8, .txa, .imp, .attested, .bare .txa⟩,
   ⟨0x8D#8, .sta, .abs, .attested, .word .staAbs⟩,
   ⟨0x98#8, .tya, .imp, .attested, .bare .tya⟩,
   ⟨0x9A#8, .txs, .imp, .attested, .bare .txs⟩,
   ⟨0x9D#8, .sta, .absx, .attested, .word .staAbsx⟩,
   ⟨0xA5#8, .lda, .zp, .candidate, .byte .ldaZp⟩,
   ⟨0xA8#8, .tay, .imp, .attested, .bare .tay⟩,
   ⟨0xA9#8, .lda, .imm, .attested, .byte .ldaImm⟩,
   ⟨0xAA#8, .tax, .imp, .attested, .bare .tax⟩,
   ⟨0xAD#8, .lda, .abs, .candidate, .word .ldaAbs⟩,
   ⟨0xB5#8, .lda, .zpx, .attested, .byte .ldaZpx⟩,
   ⟨0xB8#8, .clv, .imp, .attested, .bare .clv⟩]

/-- The rows with bytes 0xC5 to 0xF8. -/
def rowsC5toF8 : List Row :=
  [⟨0xC5#8, .cmp, .zp, .candidate, .byte .cmpZp⟩,
   ⟨0xC6#8, .dec, .zp, .attested, .byte .decZp⟩,
   ⟨0xC9#8, .cmp, .imm, .candidate, .byte .cmpImm⟩,
   ⟨0xCD#8, .cmp, .abs, .candidate, .word .cmpAbs⟩,
   ⟨0xD0#8, .bne, .rel, .attested, .byte .bne⟩,
   ⟨0xD8#8, .cld, .imp, .attested, .bare .cld⟩,
   ⟨0xE5#8, .sbc, .zp, .candidate, .byte .sbcZp⟩,
   ⟨0xE6#8, .inc, .zp, .attested, .byte .incZp⟩,
   ⟨0xE9#8, .sbc, .imm, .attested, .byte .sbcImm⟩,
   ⟨0xED#8, .sbc, .abs, .candidate, .word .sbcAbs⟩,
   ⟨0xF0#8, .beq, .rel, .attested, .byte .beq⟩,
   ⟨0xF8#8, .sed, .imp, .attested, .bare .sed⟩]

/-- The opcode table: 39 attested and 19 candidate rows (R53). -/
def opcodeTable : List Row := rows00to38 ++ rows45to78 ++ rows85toB8 ++ rowsC5toF8

/-- The row of a byte, whatever its tier. -/
def findRow (op : Byte) : Option Row := opcodeTable.find? (fun r => r.opcode == op)

/-- The bytes of the candidate rows: what CANDIDATE_OPCODES may hold (00_scope.md R2). -/
def candidateBytes : List Byte :=
  (opcodeTable.filter (fun r => r.tier == .candidate)).map (fun r => r.opcode)

/-- A row is admitted when it is attested, or when its byte is in CANDIDATE_OPCODES (R53). -/
def admits (cs : List Byte) (r : Row) : Bool := r.tier == .attested || cs.contains r.opcode

/-- The admitted table: the row a byte has under CANDIDATE_OPCODES `cs`, if any (R53, R54). -/
def admittedRow (cs : List Byte) (op : Byte) : Option Row :=
  match findRow op with
  | some r => if admits cs r then some r else none
  | none => none

/-- `cs` with the byte `b` admitted, in the table's order; a byte of no candidate row changes nothing. -/
def admitCandidate (cs : List Byte) (b : Byte) : List Byte :=
  candidateBytes.filter (fun x => x == b || cs.contains x)

/-- The opcode byte of an instruction (30_encoding.md section 3, the opcode map). -/
def Instr.opcode : Instr → Byte
  | .brk => 0x00#8
  | .oraZp _ => 0x05#8
  | .aslZp _ => 0x06#8
  | .php => 0x08#8
  | .oraImm _ => 0x09#8
  | .aslAcc => 0x0A#8
  | .oraAbs _ => 0x0D#8
  | .bpl _ => 0x10#8
  | .clc => 0x18#8
  | .jsr _ => 0x20#8
  | .andZp _ => 0x25#8
  | .rolZp _ => 0x26#8
  | .plp => 0x28#8
  | .andImm _ => 0x29#8
  | .rolAcc => 0x2A#8
  | .andAbs _ => 0x2D#8
  | .sec => 0x38#8
  | .eorZp _ => 0x45#8
  | .lsrZp _ => 0x46#8
  | .pha => 0x48#8
  | .eorImm _ => 0x49#8
  | .lsrAcc => 0x4A#8
  | .jmp _ => 0x4C#8
  | .eorAbs _ => 0x4D#8
  | .cli => 0x58#8
  | .rts => 0x60#8
  | .adcZp _ => 0x65#8
  | .rorZp _ => 0x66#8
  | .pla => 0x68#8
  | .adcImm _ => 0x69#8
  | .rorAcc => 0x6A#8
  | .adcAbs _ => 0x6D#8
  | .sei => 0x78#8
  | .staZp _ => 0x85#8
  | .txa => 0x8A#8
  | .staAbs _ => 0x8D#8
  | .tya => 0x98#8
  | .txs => 0x9A#8
  | .staAbsx _ => 0x9D#8
  | .ldaZp _ => 0xA5#8
  | .tay => 0xA8#8
  | .ldaImm _ => 0xA9#8
  | .tax => 0xAA#8
  | .ldaAbs _ => 0xAD#8
  | .ldaZpx _ => 0xB5#8
  | .clv => 0xB8#8
  | .cmpZp _ => 0xC5#8
  | .decZp _ => 0xC6#8
  | .cmpImm _ => 0xC9#8
  | .cmpAbs _ => 0xCD#8
  | .bne _ => 0xD0#8
  | .cld => 0xD8#8
  | .sbcZp _ => 0xE5#8
  | .incZp _ => 0xE6#8
  | .sbcImm _ => 0xE9#8
  | .sbcAbs _ => 0xED#8
  | .beq _ => 0xF0#8
  | .sed => 0xF8#8

/-- The mnemonic of an instruction. -/
def Instr.mnemonic : Instr → Mnemonic
  | .brk => .brk
  | .oraZp _ => .ora
  | .aslZp _ => .asl
  | .php => .php
  | .oraImm _ => .ora
  | .aslAcc => .asl
  | .oraAbs _ => .ora
  | .bpl _ => .bpl
  | .clc => .clc
  | .jsr _ => .jsr
  | .andZp _ => .and
  | .rolZp _ => .rol
  | .plp => .plp
  | .andImm _ => .and
  | .rolAcc => .rol
  | .andAbs _ => .and
  | .sec => .sec
  | .eorZp _ => .eor
  | .lsrZp _ => .lsr
  | .pha => .pha
  | .eorImm _ => .eor
  | .lsrAcc => .lsr
  | .jmp _ => .jmp
  | .eorAbs _ => .eor
  | .cli => .cli
  | .rts => .rts
  | .adcZp _ => .adc
  | .rorZp _ => .ror
  | .pla => .pla
  | .adcImm _ => .adc
  | .rorAcc => .ror
  | .adcAbs _ => .adc
  | .sei => .sei
  | .staZp _ => .sta
  | .txa => .txa
  | .staAbs _ => .sta
  | .tya => .tya
  | .txs => .txs
  | .staAbsx _ => .sta
  | .ldaZp _ => .lda
  | .tay => .tay
  | .ldaImm _ => .lda
  | .tax => .tax
  | .ldaAbs _ => .lda
  | .ldaZpx _ => .lda
  | .clv => .clv
  | .cmpZp _ => .cmp
  | .decZp _ => .dec
  | .cmpImm _ => .cmp
  | .cmpAbs _ => .cmp
  | .bne _ => .bne
  | .cld => .cld
  | .sbcZp _ => .sbc
  | .incZp _ => .inc
  | .sbcImm _ => .sbc
  | .sbcAbs _ => .sbc
  | .beq _ => .beq
  | .sed => .sed

/-- The format of an instruction (R51). -/
def Instr.format : Instr → Format
  | .brk | .php | .clc | .plp | .sec | .pha | .cli | .rts
  | .pla | .sei | .txa | .tya | .txs | .tay | .tax | .clv
  | .cld | .sed => .imp
  | .aslAcc | .rolAcc | .lsrAcc | .rorAcc => .acc
  | .oraImm _ | .andImm _ | .eorImm _ | .adcImm _ | .ldaImm _ | .cmpImm _ | .sbcImm _ => .imm
  | .oraZp _ | .aslZp _ | .andZp _ | .rolZp _ | .eorZp _ | .lsrZp _ | .adcZp _ | .rorZp _
  | .staZp _ | .ldaZp _ | .cmpZp _ | .decZp _ | .sbcZp _ | .incZp _ => .zp
  | .ldaZpx _ => .zpx
  | .oraAbs _ | .jsr _ | .andAbs _ | .jmp _ | .eorAbs _ | .adcAbs _ | .staAbs _ | .ldaAbs _
  | .cmpAbs _ | .sbcAbs _ => .abs
  | .staAbsx _ => .absx
  | .bpl _ | .bne _ | .beq _ => .rel

/-- The tier of an instruction's row (R53). -/
def Instr.tier : Instr → Tier
  | .brk | .aslZp _ | .php | .aslAcc | .bpl _ | .clc | .jsr _ | .rolZp _
  | .plp | .rolAcc | .sec | .lsrZp _ | .pha | .lsrAcc | .jmp _ | .cli
  | .rts | .rorZp _ | .pla | .adcImm _ | .rorAcc | .sei | .txa | .staAbs _
  | .tya | .txs | .staAbsx _ | .tay | .ldaImm _ | .tax | .ldaZpx _ | .clv
  | .decZp _ | .bne _ | .cld | .incZp _ | .sbcImm _ | .beq _ | .sed => .attested
  | .oraZp _ | .oraImm _ | .oraAbs _ | .andZp _ | .andImm _ | .andAbs _ | .eorZp _ | .eorImm _
  | .eorAbs _ | .adcZp _ | .adcAbs _ | .staZp _ | .ldaZp _ | .ldaAbs _ | .cmpZp _ | .cmpImm _
  | .cmpAbs _ | .sbcZp _ | .sbcAbs _ => .candidate

/-- The length in bytes that a format fixes (R51). -/
def Format.length : Format → Nat
  | .imp | .acc => 1
  | .imm | .zp | .zpx | .rel => 2
  | .abs | .absx => 3

/-- The length of an instruction in bytes; the format alone fixes it (R51). -/
def Instr.length (i : Instr) : Nat := i.format.length

end Sys2Proof
end

