-- ==== Sys2Proof/WellFormed.lean ====
section
/-! DEFINITION. What a well-formed instruction, CANDIDATE_OPCODES and launch are. Every operand of every instruction is a
byte or a word and every value of it is legal (30_encoding.md R52), so an instruction is ill-formed only where its row is
not admitted (R53). -/

namespace Sys2Proof

/-- CANDIDATE_OPCODES is a subset of the candidate rows' bytes (00_scope.md R2), in the table's order and without repeats,
so that equal subsets are equal lists. -/
def candidatesWf (cs : List Byte) : Bool := cs == candidateBytes.filter (fun b => cs.contains b)

/-- An instruction is one of the admitted table: attested, or a candidate whose byte is in `cs` (30_encoding.md R53). -/
def Instr.wf (cs : List Byte) (i : Instr) : Bool := i.tier == .attested || cs.contains i.opcode

/-- A launch's image is in the canonical form and its CANDIDATE_OPCODES is a subset of the candidates. -/
def Launch.wf (p : Launch) : Bool := Machine.Memory.wf p.mem0 && candidatesWf p.candidateOpcodes

end Sys2Proof
end

