-- ==== Sys2Proof/Decode.lean ====
section
/-! DEFINITION. The decoder, total on any bytes, and the encoder (30_encoding.md R50 to R54). -/

namespace Sys2Proof

/-- Why bytes decode to no instruction. -/
inductive DecodeError where
  /-- There is no opcode byte. -/
  | noBytes
  /-- The byte has no row in the admitted table: IllegalOpcode (R54). -/
  | unmapped (op : Byte)
  /-- The bytes end inside the instruction. -/
  | truncated (op : Byte)
deriving DecidableEq, Repr

/-- What decoding answers: an instruction with the bytes after it, or why not. -/
inductive Decoded where
  | ok (i : Instr) (rest : List Byte)
  | error (e : DecodeError)
deriving DecidableEq, Repr

/-- The operand bytes of a row, taken from the bytes after its opcode (R51, R52): a word's low byte comes first. -/
def decodeOperands (op : Byte) : Shape → List Byte → Decoded
  | .bare i, rest => .ok i rest
  | .byte mk, b :: rest => .ok (mk b) rest
  | .byte _, [] => .error (.truncated op)
  | .word mk, lo :: hi :: rest => .ok (mk (Machine.wordOf hi lo)) rest
  | .word _, [_] => .error (.truncated op)
  | .word _, [] => .error (.truncated op)

/-- Decode the first instruction of `bytes` under CANDIDATE_OPCODES `cs`. -/
def decode (cs : List Byte) : List Byte → Decoded
  | [] => .error .noBytes
  | op :: rest =>
    match admittedRow cs op with
    | none => .error (.unmapped op)
    | some r => decodeOperands op r.shape rest

/-- A word's bytes in the instruction stream: little-endian (R52). -/
def wordBytes (w : Word) : List Byte := [Machine.loByte w, Machine.hiByte w]

/-- The operand bytes of an instruction (R51, R52). -/
def Instr.operandBytes : Instr → List Byte
  | .brk | .php | .aslAcc | .clc | .plp | .rolAcc | .sec | .pha
  | .lsrAcc | .cli | .rts | .pla | .rorAcc | .sei | .txa | .tya
  | .txs | .tay | .tax | .clv | .cld | .sed => []
  | .oraZp b | .aslZp b | .oraImm b | .bpl b | .andZp b | .rolZp b | .andImm b | .eorZp b
  | .lsrZp b | .eorImm b | .adcZp b | .rorZp b | .adcImm b | .staZp b | .ldaZp b | .ldaImm b
  | .ldaZpx b | .cmpZp b | .decZp b | .cmpImm b | .bne b | .sbcZp b | .incZp b | .sbcImm b
  | .beq b => [b]
  | .oraAbs w | .jsr w | .andAbs w | .jmp w | .eorAbs w | .adcAbs w | .staAbs w | .staAbsx w
  | .ldaAbs w | .cmpAbs w | .sbcAbs w => wordBytes w

/-- The bytes of an instruction: the opcode, then its operand bytes (R50). -/
def encode (i : Instr) : List Byte := i.opcode :: i.operandBytes

/-- The first three bytes, in address order, of an instruction whose `nbits` bits are `w` and whose further bits are 0;
three bytes is the longest instruction (R51). -/
def tableBytes (nbits w : Nat) : List Byte :=
  [BitVec.ofNat 8 (w % 2 ^ nbits), BitVec.ofNat 8 (w % 2 ^ nbits / 256), BitVec.ofNat 8 (w % 2 ^ nbits / 65536)]

/-- The instruction the decoder reads from the word `w` of an opcode-table row, every candidate row admitted. -/
def decodeTableWord (nbits w : Nat) : Option Instr :=
  match decode candidateBytes (tableBytes nbits w) with
  | .ok i _ => some i
  | .error _ => none

end Sys2Proof
end

