-- ==== Sys2Proof/Machine/Fetch.lean ====
section
/-! DEFINITION. The fetch of one instruction (40_dispatch.md R64 to R66): the opcode, the table lookup, then the operand
bytes, all through FetchByte, before the operation touches anything (R77). -/

namespace Sys2Proof.Machine

/-- What a fetch finds: a byte with no admitted row, or an instruction, with the opcode byte and the state after. -/
inductive Fetched where
  | illegal (op : Byte) (s : State)
  | instr (op : Byte) (i : Instr) (s : State)
deriving DecidableEq, Repr

/-- The operand bytes of a row's instruction, fetched in order (R66 to R74). -/
def fetchOperands (s : State) : Shape → Instr × State
  | .bare i => (i, s)
  | .byte mk => (mk (fetchByte s).1, (fetchByte s).2)
  | .word mk => (mk (fetchWord s).1, (fetchWord s).2)

/-- Fetch the instruction at PC from the admitted table of the state's CANDIDATE_OPCODES. -/
def fetch (s : State) : Fetched :=
  match admittedRow s.candidates (fetchByte s).1 with
  | none => .illegal (fetchByte s).1 (fetchByte s).2
  | some r =>
    .instr (fetchByte s).1 (fetchOperands (fetchByte s).2 r.shape).1 (fetchOperands (fetchByte s).2 r.shape).2

/-- End a step: append its trace record to a next state (R66); a stop stays as it is. -/
def endStep (op : Byte) (pc0 : Word) : Result → Result
  | .next s => .next (appendTrace op pc0 s)
  | .fault r => .fault r
  | .refused r => .refused r

/-- Place the three bytes of an opcode-table word where the next instruction is fetched, as the loader would; admit its
row if it is a candidate; and make the block run, since only a running block fetches (R62). -/
def placeTableWord (s : State) (nbits w : Nat) : State :=
  ((s.withMem (storeBytes s.mem s.pc (tableBytes nbits w))).withCandidates
    (admitCandidate s.candidates (BitVec.ofNat 8 (w % 2 ^ nbits)))).withStatus .running

end Sys2Proof.Machine
end

