-- ==== Sys2Proof/Machine/Step.lean ====
section
/-! DEFINITION. One step of the decode/execute loop (40_dispatch.md R62 to R66). -/

namespace Sys2Proof.Machine

/-- `step()`: the counter's tick, the fetch, the operation or the illegal-opcode fault, the trace record. In a status other
than Running there is no step (R62): the model answers a fault that names the status (log entry 4). -/
def step (s : State) : Host.Outcome State Fault Refusal :=
  match s.status with
  | .halted => .fault .haltedByBrk
  | .faulted op pc => .fault (.illegalOpcode op pc)
  | .running =>
    match fetch (tick s) with
    | .illegal op s1 => endStep op s.pc (.next (raiseIllegalOpcode s1 op s.pc))
    | .instr op i s1 => endStep op s.pc (exec i s1)

/-- `s` with the instruction of an opcode-table word as the one the very next step runs (log entry 10). -/
def State.withFetchWord (s : State) (nbits w : Nat) : State := placeTableWord s nbits w

end Sys2Proof.Machine
end

