-- ==== Sys2Proof/Machine/Interface.lean ====
section
/-! DEFINITION. The block's transactions with its host (10_state.md R27; 70_reset_and_hazards.md R146, R149, R150): `load`
acts on the launch parameters, so only before the first reset; `reset` and `step` act on the state. -/

namespace Sys2Proof.Machine

/-- `load`: the loader writes bytes into the image at a chosen address, before the first reset (R27, R146). -/
def loadImage (p : Launch) (addr : Word) (bytes : List Byte) : Launch := { p with mem0 := storeBytes p.mem0 addr bytes }

/-- The loader writes the reset vector, little-endian at 0xFFFC and 0xFFFD (R146). -/
def loadVector (p : Launch) (entry : Word) : Launch := loadImage p 0xFFFC#16 (wordBytes entry)

/-- The two transactions a host may call on a launched block (R27). -/
inductive HostCall where
  | reset
  | step
deriving DecidableEq, Repr

/-- One transaction, atomic (R27). -/
def hostCall (s : State) : HostCall → Result
  | .reset => .next (hostReset s)
  | .step => step s

/-- The host's loop (R146, R149): step while the status is Running, at most `k` times. -/
def runWhileRunning : Nat → State → Result
  | 0, s => .next s
  | k + 1, s =>
    if s.status = .running then
      match step s with
      | .next t => runWhileRunning k t
      | .fault r => .fault r
      | .refused r => .refused r
    else .next s

end Sys2Proof.Machine
end

