-- ==== Sys2Proof/Safety.lean ====
section
/-! DEFINITION. What counts as a good state and a reachable one, and the frames in which claims say what an instruction
leaves unchanged. -/

namespace Sys2Proof.Machine

/-- Every entry of the PPU write log names one of the eight registers 0x2000 to 0x2007 (10_state.md R23). -/
def ppuLogWf (l : List PpuWrite) : Prop := ∀ w ∈ l, 0x2000 ≤ w.reg.toNat ∧ w.reg.toNat ≤ 0x2007

/-- The trace holds one record for each tick of the counter, numbered from 1 (10_state.md R21, R24; 40_dispatch.md R63). -/
def traceWf (k : Nat) (l : List TraceRecord) : Prop :=
  l.length = k ∧ ∀ (j : Nat) (r : TraceRecord), l[j]? = some r → r.icount = j + 1

/-- A halted block's last step fetched BRK; a faulted block's last step fetched the byte its status names, from the address
it names, and that byte has no row in the admitted table (60_exceptions.md R120, R121). -/
def statusTraced (s : State) : Prop :=
  match s.status with
  | .running => True
  | .halted => ∃ r, s.traceLog.getLast? = some r ∧ r.opcode = 0x00#8
  | .faulted op pc =>
    (∃ r, s.traceLog.getLast? = some r ∧ r.opcode = op ∧ r.pcBefore = pc) ∧ admittedRow s.candidates op = none

/-- The invariant of the block: memory in its canonical form, CANDIDATE_OPCODES a subset of the candidates, the logs as the
spec says, and the run status agreeing with the trace. -/
structure State.Inv (s : State) : Prop where
  memory : Memory.wf s.mem = true
  candidates : candidatesWf s.candidates = true
  ppuLog : ppuLogWf s.ppuLog
  trace : traceWf s.icount s.traceLog
  status : statusTraced s

/-- The states a host can reach from a launch by resets and steps (10_state.md R27; 70_reset_and_hazards.md R146). -/
inductive Reachable (p : Launch) : State → Prop where
  | launch : Reachable p (State.launch p)
  | call (s t : State) (c : HostCall) : Reachable p s → hostCall s c = .next t → Reachable p t

/-- A run that ended normally (70_reset_and_hazards.md R149). -/
def State.endedNormally (s : State) : Prop := s.status = .halted

/-- A run that ended in the fault IllegalOpcode (70_reset_and_hazards.md R149). -/
def State.endedInFault (s : State) : Prop := ∃ op pc, s.status = .faulted op pc

/-- Every byte of memory reads as before. -/
def SameMemory (s t : State) : Prop := ∀ b : Word, memRead t b = memRead s b

/-- The byte `v` was stored at `ea`, and every other byte of memory reads as before. -/
def StoredOnly (s t : State) (ea : Word) (v : Byte) : Prop :=
  memRead t ea = v ∧ ∀ b : Word, b ≠ ea → memRead t b = memRead s b

/-- Z and N are those of the byte `r` (10_state.md R17). -/
def ZNof (f : Flags) (r : Byte) : Prop := (f.z = true ↔ r.toNat = 0) ∧ (f.n = true ↔ 128 ≤ r.toNat)

/-- The bytes of an instruction, its tier, and that the decoder reads those bytes as it (30_encoding.md R50 to R53). -/
def Encoded (i : Instr) (tier : Tier) (bytes : List Byte) : Prop :=
  encode i = bytes ∧ i.tier = tier ∧ decode candidateBytes bytes = .ok i []

/-- A claim about the immediate, zero-page and absolute forms of an instruction that loads a byte, each with the byte it
loads: the operand itself, the cell at `zext_16(z)`, the cell at `addr` (40_dispatch.md R67, R68, R70, R75). -/
def ReadForms (imm zp : Byte → Instr) (abs : Word → Instr) (P : Instr → (State → Byte) → Prop) : Prop :=
  (∀ v, P (imm v) (fun _ => v)) ∧
  (∀ z, P (zp z) (fun s => memRead s (BitVec.ofNat 16 z.toNat))) ∧
  (∀ addr, P (abs addr) (fun s => memRead s addr))

/-- What a shift or rotate gives on either of its two forms (47_shift_incdec.md): the result byte, the carry out of the
operand, Z and N of the result; V, B, D and I as before; the accumulator form changes A and flags alone, the zero-page form
one byte and flags alone. `result` and `carry` say the result byte's value and the new C from the operand byte's value and
the carry before. -/
def Shifts (acc : Instr) (zp : Byte → Instr) (result : Nat → Nat → Nat) (carry : Nat → Prop) : Prop :=
  (∀ s, ∃ t, exec acc s = .next t ∧
    t.a.toNat = result s.a.toNat (bitNat s.flags.c) ∧ (t.flags.c = true ↔ carry s.a.toNat) ∧ ZNof t.flags t.a ∧
    t = { s with a := t.a, flags := { s.flags with c := t.flags.c, z := t.flags.z, n := t.flags.n } } ∧
    SameMemory s t) ∧
  (∀ s z ea, Memory.wf s.mem = true → resolveZp z = .mem ea → ∃ t r, exec (zp z) s = .next t ∧
    r.toNat = result (memRead s ea).toNat (bitNat s.flags.c) ∧ (t.flags.c = true ↔ carry (memRead s ea).toNat) ∧
    ZNof t.flags r ∧ StoredOnly s t ea r ∧
    t = { s with mem := t.mem, flags := { s.flags with c := t.flags.c, z := t.flags.z, n := t.flags.n } })

end Sys2Proof.Machine
end

