-- ==== Sys2Proof/Certificates/Slice0/Obligations.lean ====
section
/-! DEFINITION. The statements for the provers. Each docstring names the rule of spec/ it formalises. A frame written as
`t = { s with … }` says that every field of State not named there is unchanged. An instruction runs on the state after its
bytes are fetched, so PC is already past them (40_dispatch.md R66, R77); `StepRunsTheDecodedInstruction` says so. -/

open Sys2Proof Sys2Proof.Machine

/-! ## Encoding -/

/-- 30_encoding.md R50 to R53: every well-formed instruction decodes from its own bytes, whatever follows them; one
whose row is not admitted is rejected by its opcode byte. The opcode bytes and the candidate rows rest on the spec's
decisions D1 and D2. -/
def Obligations.DecodeOfEncodeGivesTheInstruction : Prop :=
  ∀ (cs : List Byte) (i : Instr) (rest : List Byte),
    (i.wf cs = true → decode cs (encode i ++ rest) = .ok i rest) ∧
    (i.wf cs = false → decode cs (encode i ++ rest) = .error (.unmapped i.opcode))

/-- 30_encoding.md R50 to R54: whatever decodes was the encoding of a well-formed instruction, so no byte is dropped and
no byte has two readings. The opcode bytes and the candidate rows rest on the spec's decisions D1 and D2. -/
def Obligations.EncodeOfDecodeGivesTheBytes : Prop :=
  ∀ (cs bytes rest : List Byte) (i : Instr), decode cs bytes = .ok i rest → bytes = encode i ++ rest ∧ i.wf cs = true

/-- 30_encoding.md R53, R54: the admitted table has a row for exactly the 39 attested bytes and those of the 19
candidate bytes that CANDIDATE_OPCODES holds; every other byte is unmapped, 0xFF in every configuration. The bytes
and the candidate rows rest on the spec's decisions D1 and D2. -/
def Obligations.AdmittedTableIsAttestedPlusAdmittedCandidates : Prop :=
  ∀ (cs : List Byte) (op : Byte),
    ((admittedRow cs op).isSome = true ↔
      op ∈ [0x00#8, 0x06#8, 0x08#8, 0x0A#8, 0x10#8, 0x18#8, 0x20#8, 0x26#8, 0x28#8, 0x2A#8, 0x38#8, 0x46#8, 0x48#8, 0x4A#8,
        0x4C#8, 0x58#8, 0x60#8, 0x66#8, 0x68#8, 0x69#8, 0x6A#8, 0x78#8, 0x8A#8, 0x8D#8, 0x98#8, 0x9A#8, 0x9D#8, 0xA8#8,
        0xA9#8, 0xAA#8, 0xB5#8, 0xB8#8, 0xC6#8, 0xD0#8, 0xD8#8, 0xE6#8, 0xE9#8, 0xF0#8, 0xF8#8] ∨
      (op ∈ cs ∧ op ∈ [0x05#8, 0x09#8, 0x0D#8, 0x25#8, 0x29#8, 0x2D#8, 0x45#8, 0x49#8, 0x4D#8, 0x65#8, 0x6D#8, 0x85#8,
        0xA5#8, 0xAD#8, 0xC5#8, 0xC9#8, 0xCD#8, 0xE5#8, 0xED#8])) ∧
    (admittedRow cs op = none → ∀ rest, decode cs (op :: rest) = .error (.unmapped op)) ∧
    admittedRow cs 0xFF#8 = none

/-- 30_encoding.md R51: implied and accumulator 1 byte; immediate, zero page, zero page,X and relative 2; absolute and
absolute,X 3; BRK 1; and the opcode byte alone tells the length. That BRK is one byte is the spec's decision D4; the
bytes rest on D1. -/
def Obligations.LengthIsFixedByTheOpcodeByte : Prop :=
  (∀ i : Instr, (encode i).length = i.length ∧
    (i.format = .imp ∨ i.format = .acc → i.length = 1) ∧
    (i.format = .imm ∨ i.format = .zp ∨ i.format = .zpx ∨ i.format = .rel → i.length = 2) ∧
    (i.format = .abs ∨ i.format = .absx → i.length = 3)) ∧
  Instr.brk.length = 1 ∧
  (∀ i j : Instr, i.opcode = j.opcode → i.format = j.format ∧ i.mnemonic = j.mnemonic ∧ i.length = j.length)

/-- Words the spec writes out byte for byte (30_encoding.md section 4; 95_test_vectors.md), one of each family and
format. The bytes but 0xA9, 0x8D and 0x00 rest on the spec's decision D1. -/
def Obligations.WordsOfTheSpecDecode : Prop :=
  decode [] [0xA9#8, 0x10#8, 0x8D#8] = .ok (.ldaImm 0x10#8) [0x8D#8] ∧
  decode [] [0x8D#8, 0x00#8, 0x02#8] = .ok (.staAbs 0x0200#16) [] ∧
  decode [] [0xB5#8, 0x80#8] = .ok (.ldaZpx 0x80#8) [] ∧
  decode [] [0x9D#8, 0xFF#8, 0x1F#8] = .ok (.staAbsx 0x1FFF#16) [] ∧
  decode [] [0xE9#8, 0x01#8] = .ok (.sbcImm 0x01#8) [] ∧
  decode [0x29#8] [0x29#8, 0x0F#8] = .ok (.andImm 0x0F#8) [] ∧
  decode [] [0x29#8, 0x0F#8] = .error (.unmapped 0x29#8) ∧
  decode [] [0xD0#8, 0xFC#8] = .ok (.bne 0xFC#8) [] ∧
  decode [] [0x20#8, 0x00#8, 0x90#8] = .ok (.jsr 0x9000#16) [] ∧
  decode [] [0x00#8] = .ok .brk [] ∧
  decode [] [0x28#8] = .ok .plp [] ∧
  decode [] [0x0A#8] = .ok .aslAcc [] ∧
  decode [] [0xE6#8, 0x10#8] = .ok (.incZp 0x10#8) [] ∧
  decode [] [0xF8#8] = .ok .sed [] ∧
  decode [] [0xFF#8] = .error (.unmapped 0xFF#8)

/-! ## The step -/

/-- 40_dispatch.md R63 to R66, R60, R61: when the bytes at PC (modulo 65536) decode to an instruction, a step is the
instruction's meaning on the state with the counter one higher and PC past the instruction, and then the trace
record. The trace record of every step is the spec's decision D11. -/
def Obligations.StepRunsTheDecodedInstruction : Prop :=
  ∀ (s : State) (i : Instr) (rest : List Byte), s.status = .running →
    decode s.candidates [memRead s s.pc, memRead s (s.pc + 1#16), memRead s (s.pc + 2#16)] = .ok i rest →
    ∃ t, exec i { s with icount := s.icount + 1, pc := s.pc + BitVec.ofNat 16 i.length } = .next t ∧
      step s = .next { t with traceLog := t.traceLog ++
        [{ opcode := i.opcode, pcBefore := s.pc, a := t.a, x := t.x, y := t.y, sp := t.sp, pc := t.pc, p := pack t.flags,
           icount := t.icount }] }

/-- 60_exceptions.md R121: a fetched byte with no admitted row faults the block with that byte and its address; the
counter has ticked, PC is one past, and nothing else has changed but the trace. -/
def Obligations.UnmappedByteFaultsTheBlock : Prop :=
  ∀ s : State, s.status = .running → admittedRow s.candidates (memRead s s.pc) = none →
    ∃ t, step s = .next t ∧ t.status = .faulted (memRead s s.pc) s.pc ∧ t.icount = s.icount + 1 ∧
      t.pc.toNat = (s.pc.toNat + 1) % 65536 ∧
      t = { s with status := t.status, icount := t.icount, pc := t.pc, traceLog := t.traceLog } ∧ SameMemory s t

/-- 40_dispatch.md R62, 60_exceptions.md R122: a step is defined exactly when the status is Running, so no decoded
instruction fails; in the two other statuses the model stops, naming the cause (log entry 4). That no step is
defined otherwise is the spec's decision D5. -/
def Obligations.StepIsDefinedExactlyWhenRunning : Prop :=
  ∀ s : State,
    ((∃ t, step s = .next t) ↔ s.status = .running) ∧
    (step s = .fault .haltedByBrk ↔ s.status = .halted) ∧
    (∀ op pc, step s = .fault (.illegalOpcode op pc) ↔ s.status = .faulted op pc)

/-- 60_exceptions.md R123, R124, R126: only BRK halts the block and only an unmapped byte faults it, and the two are
reported distinctly. It rests on the spec's decisions D4 and D5. -/
def Obligations.OnlyBrkAndUnmappedBytesStopTheBlock : Prop :=
  ∀ s t : State, step s = .next t →
    (t.status = .halted ↔ memRead s s.pc = 0x00#8) ∧
    (∀ op pc, t.status = .faulted op pc ↔
      admittedRow s.candidates (memRead s s.pc) = none ∧ op = memRead s s.pc ∧ pc = s.pc)

/-- 40_dispatch.md R63: every step, a halting or faulting one too, increments the instruction counter by exactly 1. -/
def Obligations.EveryStepTicksTheCounterOnce : Prop :=
  ∀ s t : State, step s = .next t → t.icount = s.icount + 1

/-- 10_state.md R24, 40_dispatch.md R66, by the spec's decision D11: every step, a halting or faulting one too, appends
one trace record, with the opcode and PC before the fetch and the state after the step. -/
def Obligations.EveryStepAppendsOneTraceRecord : Prop :=
  ∀ s t : State, step s = .next t → t.traceLog = s.traceLog ++
    [{ opcode := memRead s s.pc, pcBefore := s.pc, a := t.a, x := t.x, y := t.y, sp := t.sp, pc := t.pc, p := pack t.flags,
       icount := t.icount }]

/-- 70_reset_and_hazards.md R149, 60_exceptions.md R123 (the spec's decision D5): the host's loop of at most `k` steps
never meets a stuck state; it leaves a block that is not running as it is, and a block still running after it has
made `k` steps. -/
def Obligations.RunsEndOnlyByTheRunStatus : Prop :=
  ∀ (k : Nat) (s : State), ∃ t, runWhileRunning k s = .next t ∧ (s.status ≠ .running → t = s) ∧
    (t.status = .running → t.icount = s.icount + k)

/-- 10_state.md R15: an instruction that is no branch, JSR, RTS or JMP leaves PC at the byte after itself, modulo 65536.
BRK's length of one byte is the spec's decision D4. -/
def Obligations.PcMovesPastTheInstruction : Prop :=
  ∀ (s t : State) (i : Instr) (rest : List Byte),
    decode s.candidates [memRead s s.pc, memRead s (s.pc + 1#16), memRead s (s.pc + 2#16)] = .ok i rest →
    step s = .next t → i.mnemonic ∉ [Mnemonic.bne, .beq, .bpl, .jsr, .rts, .jmp] →
    t.pc.toNat = (s.pc.toNat + i.length) % 65536

/-! ## The bus and the addressing modes -/

/-- 20_memory.md R30 to R33: a write in 0x2000 to 0x3FFF sends `(0x2000 + a mod 8, v)` to the PPU and stores nothing;
any other write stores the byte, a read of the cell gives it, and no other cell changes. -/
def Obligations.BusWriteStoresOrRedirects : Prop :=
  ∀ (s : State) (addr : Word) (v : Byte), Memory.wf s.mem = true →
    (0x2000 ≤ addr.toNat ∧ addr.toNat ≤ 0x3FFF →
      memWrite s addr v = { s with ppuLog := s.ppuLog ++ [⟨BitVec.ofNat 16 (0x2000 + addr.toNat % 8), v⟩] } ∧
      SameMemory s (memWrite s addr v)) ∧
    (addr.toNat < 0x2000 ∨ 0x3FFF < addr.toNat →
      memWrite s addr v = { s with mem := (memWrite s addr v).mem } ∧ StoredOnly s (memWrite s addr v) addr v)

/-- 20_memory.md R36 to R39: a push stores at the cell SP names, then decrements SP modulo 256; a pull increments SP,
then reads; a word goes high byte first and comes back low byte first; and a pulled word is the pushed one, with SP
restored. -/
def Obligations.StackPrimitivesPushAndPull : Prop :=
  ∀ (s : State) (v : Byte) (w : Word), Memory.wf s.mem = true →
    ((stackAddr s.sp).toNat = 0x100 + s.sp.toNat ∧ StoredOnly s (push s v) (stackAddr s.sp) v ∧
      (push s v).sp.toNat = (s.sp.toNat + 255) % 256 ∧ push s v = { s with mem := (push s v).mem, sp := (push s v).sp }) ∧
    ((pull s).1 = memRead s (BitVec.ofNat 16 (0x100 + (s.sp.toNat + 1) % 256)) ∧
      (pull s).2.sp.toNat = (s.sp.toNat + 1) % 256 ∧ (pull s).2 = { s with sp := (pull s).2.sp }) ∧
    ((memRead (pushWord s w) (stackAddr s.sp)).toNat = w.toNat / 256 ∧
      (memRead (pushWord s w) (stackAddr (s.sp - 1#8))).toNat = w.toNat % 256 ∧
      (pushWord s w).sp.toNat = (s.sp.toNat + 254) % 256 ∧
      (∀ b, b ≠ stackAddr s.sp → b ≠ stackAddr (s.sp - 1#8) → memRead (pushWord s w) b = memRead s b) ∧
      pushWord s w = { s with mem := (pushWord s w).mem, sp := (pushWord s w).sp }) ∧
    ((pullWord s).1.toNat = (memRead s (BitVec.ofNat 16 (0x100 + (s.sp.toNat + 2) % 256))).toNat * 256 +
        (memRead s (BitVec.ofNat 16 (0x100 + (s.sp.toNat + 1) % 256))).toNat ∧
      (pullWord s).2 = { s with sp := s.sp + 2#8 } ∧
      pullWord (pushWord s w) = (w, { s with mem := (pushWord s w).mem }))

/-- 40_dispatch.md R68 to R71: the effective address of each memory mode, the indexed ones wrapping at 8 and at 16 bits.
-/
def Obligations.AddressingModesGiveTheEffectiveAddress : Prop :=
  ∀ (s : State) (z : Byte) (addr : Word),
    (∃ ea, resolveZp z = .mem ea ∧ ea.toNat = z.toNat) ∧
    (∃ ea, resolveZpx s z = .mem ea ∧ ea.toNat = (z.toNat + s.x.toNat) % 256) ∧
    (∃ ea, resolveAbs addr = .mem ea ∧ ea.toNat = addr.toNat) ∧
    (∃ ea, resolveAbsx s addr = .mem ea ∧ ea.toNat = (addr.toNat + s.x.toNat) % 65536)

/-! ## Load and store -/

/-- 41_load_store.md R80: LDA, its four forms. The opcode bytes but 0xA9 rest on the spec's decision D1 and the
candidate forms on D2. -/
def Obligations.LdaLoadsItsOperand : Prop :=
  (∀ v, Encoded (.ldaImm v) .attested [0xA9#8, v]) ∧ (∀ z, Encoded (.ldaZpx z) .attested [0xB5#8, z]) ∧
  (∀ z, Encoded (.ldaZp z) .candidate [0xA5#8, z]) ∧
  (∀ addr, Encoded (.ldaAbs addr) .candidate [0xAD#8, loByte addr, hiByte addr]) ∧
  ReadForms .ldaImm .ldaZp .ldaAbs (fun i m => ∀ s, ∃ t, exec i s = .next t ∧ t.a = m s ∧ ZNof t.flags (m s) ∧
    t = { s with a := t.a, flags := { s.flags with z := t.flags.z, n := t.flags.n } } ∧ SameMemory s t) ∧
  (∀ s z, ∃ t, exec (.ldaZpx z) s = .next t ∧ t.a = memRead s (BitVec.ofNat 16 ((z.toNat + s.x.toNat) % 256)) ∧
    ZNof t.flags t.a ∧
    t = { s with a := t.a, flags := { s.flags with z := t.flags.z, n := t.flags.n } } ∧ SameMemory s t)

/-- 41_load_store.md R81: STA, its three forms: a store, or a PPU write when the address lies in 0x2000 to 0x3FFF. The
opcode bytes but 0x8D rest on the spec's decision D1 and the candidate forms on D2. -/
def Obligations.StaStoresOrWritesThePpu : Prop :=
  (∀ addr, Encoded (.staAbs addr) .attested [0x8D#8, loByte addr, hiByte addr]) ∧
  (∀ addr, Encoded (.staAbsx addr) .attested [0x9D#8, loByte addr, hiByte addr]) ∧
  (∀ z, Encoded (.staZp z) .candidate [0x85#8, z]) ∧
  ∀ (s : State) (i : Instr) (ea : Word), Memory.wf s.mem = true →
    ((∃ z, i = .staZp z ∧ resolveZp z = .mem ea) ∨ (∃ addr, i = .staAbs addr ∧ resolveAbs addr = .mem ea) ∨
      (∃ addr, i = .staAbsx addr ∧ resolveAbsx s addr = .mem ea)) →
    ∃ t, exec i s = .next t ∧
      (0x2000 ≤ ea.toNat ∧ ea.toNat ≤ 0x3FFF →
        t = { s with ppuLog := s.ppuLog ++ [⟨BitVec.ofNat 16 (0x2000 + ea.toNat % 8), s.a⟩] } ∧ SameMemory s t) ∧
      (ea.toNat < 0x2000 ∨ 0x3FFF < ea.toNat → t = { s with mem := t.mem } ∧ StoredOnly s t ea s.a)

/-! ## Arithmetic -/

/-- 42_arithmetic.md R82: ADC, its three forms. V is set exactly when the signed sum does not fit, which is also when A
and the operand have the same bit 7 and the result's differs. The opcode bytes rest on the spec's decision D1 and
the candidate forms on D2. -/
def Obligations.AdcAddsWithCarry : Prop :=
  (∀ v, Encoded (.adcImm v) .attested [0x69#8, v]) ∧ (∀ z, Encoded (.adcZp z) .candidate [0x65#8, z]) ∧
  (∀ addr, Encoded (.adcAbs addr) .candidate [0x6D#8, loByte addr, hiByte addr]) ∧
  ReadForms .adcImm .adcZp .adcAbs (fun i m => ∀ s, ∃ t, exec i s = .next t ∧
    t.a.toNat = (s.a.toNat + (m s).toNat + bitNat s.flags.c) % 256 ∧
    (t.flags.c = true ↔ 255 < s.a.toNat + (m s).toNat + bitNat s.flags.c) ∧
    (t.flags.v = true ↔ s.a.msb = (m s).msb ∧ t.a.msb ≠ s.a.msb) ∧
    (t.flags.v = true ↔ s.a.toInt + (m s).toInt + (bitNat s.flags.c : Int) < -128 ∨
      127 < s.a.toInt + (m s).toInt + (bitNat s.flags.c : Int)) ∧
    ZNof t.flags t.a ∧
    t = { s with a := t.a, flags := { s.flags with c := t.flags.c, v := t.flags.v, z := t.flags.z, n := t.flags.n } } ∧
    SameMemory s t)

/-- 42_arithmetic.md R83: SBC, its three forms. C is "no borrow"; V is set exactly when the signed difference does not
fit, which is also when A and the operand differ in bit 7 and the result's bit 7 differs from A's. The opcode bytes
rest on the spec's decision D1 and the candidate forms on D2. -/
def Obligations.SbcSubtractsWithBorrow : Prop :=
  (∀ v, Encoded (.sbcImm v) .attested [0xE9#8, v]) ∧ (∀ z, Encoded (.sbcZp z) .candidate [0xE5#8, z]) ∧
  (∀ addr, Encoded (.sbcAbs addr) .candidate [0xED#8, loByte addr, hiByte addr]) ∧
  ReadForms .sbcImm .sbcZp .sbcAbs (fun i m => ∀ s, ∃ t, exec i s = .next t ∧
    (t.a.toNat : Int) = ((s.a.toNat : Int) - (m s).toNat - (1 - bitNat s.flags.c)) % 256 ∧
    (t.flags.c = true ↔ 0 ≤ (s.a.toNat : Int) - (m s).toNat - (1 - bitNat s.flags.c)) ∧
    (t.flags.v = true ↔ s.a.msb ≠ (m s).msb ∧ t.a.msb ≠ s.a.msb) ∧
    (t.flags.v = true ↔ s.a.toInt - (m s).toInt - (1 - (bitNat s.flags.c : Int)) < -128 ∨
      127 < s.a.toInt - (m s).toInt - (1 - (bitNat s.flags.c : Int))) ∧
    ZNof t.flags t.a ∧
    t = { s with a := t.a, flags := { s.flags with c := t.flags.c, v := t.flags.v, z := t.flags.z, n := t.flags.n } } ∧
    SameMemory s t)

/-- 42_arithmetic.md R117: SBC of a byte is ADC of its complement, in the whole state. -/
def Obligations.SbcIsAdcOfTheComplement : Prop :=
  ∀ (s : State) (m : Byte), exec (.sbcImm m) s = exec (.adcImm (m ^^^ 0xFF#8)) s

/-! ## Logic and compare -/

/-- 43_logic_compare.md R84 to R86: AND, ORA and EOR, their three forms each, bit by bit; C and V are not touched. The
opcode bytes rest on the spec's decision D1 and the candidate forms on D2. -/
def Obligations.LogicCombinesBitByBit : Prop :=
  (∀ v, Encoded (.andImm v) .candidate [0x29#8, v]) ∧ (∀ z, Encoded (.andZp z) .candidate [0x25#8, z]) ∧
  (∀ addr, Encoded (.andAbs addr) .candidate [0x2D#8, loByte addr, hiByte addr]) ∧
  (∀ v, Encoded (.oraImm v) .candidate [0x09#8, v]) ∧ (∀ z, Encoded (.oraZp z) .candidate [0x05#8, z]) ∧
  (∀ addr, Encoded (.oraAbs addr) .candidate [0x0D#8, loByte addr, hiByte addr]) ∧
  (∀ v, Encoded (.eorImm v) .candidate [0x49#8, v]) ∧ (∀ z, Encoded (.eorZp z) .candidate [0x45#8, z]) ∧
  (∀ addr, Encoded (.eorAbs addr) .candidate [0x4D#8, loByte addr, hiByte addr]) ∧
  ReadForms .andImm .andZp .andAbs (fun i m => ∀ s, ∃ t, exec i s = .next t ∧
    (∀ k, t.a.getLsbD k = (s.a.getLsbD k && (m s).getLsbD k)) ∧ ZNof t.flags t.a ∧
    t = { s with a := t.a, flags := { s.flags with z := t.flags.z, n := t.flags.n } } ∧ SameMemory s t) ∧
  ReadForms .oraImm .oraZp .oraAbs (fun i m => ∀ s, ∃ t, exec i s = .next t ∧
    (∀ k, t.a.getLsbD k = (s.a.getLsbD k || (m s).getLsbD k)) ∧ ZNof t.flags t.a ∧
    t = { s with a := t.a, flags := { s.flags with z := t.flags.z, n := t.flags.n } } ∧ SameMemory s t) ∧
  ReadForms .eorImm .eorZp .eorAbs (fun i m => ∀ s, ∃ t, exec i s = .next t ∧
    (∀ k, t.a.getLsbD k = (s.a.getLsbD k ^^ (m s).getLsbD k)) ∧ ZNof t.flags t.a ∧
    t = { s with a := t.a, flags := { s.flags with z := t.flags.z, n := t.flags.n } } ∧ SameMemory s t)

/-- 43_logic_compare.md R87: CMP, its three forms: C from the unmasked unsigned comparison, Z exactly when equal, N from
the truncated difference; A is not written. The opcode bytes rest on the spec's decision D1 and the candidate forms
on D2. -/
def Obligations.CmpComparesUnsigned : Prop :=
  (∀ v, Encoded (.cmpImm v) .candidate [0xC9#8, v]) ∧ (∀ z, Encoded (.cmpZp z) .candidate [0xC5#8, z]) ∧
  (∀ addr, Encoded (.cmpAbs addr) .candidate [0xCD#8, loByte addr, hiByte addr]) ∧
  ReadForms .cmpImm .cmpZp .cmpAbs (fun i m => ∀ s, ∃ t, exec i s = .next t ∧
    (t.flags.c = true ↔ (m s).toNat ≤ s.a.toNat) ∧ (t.flags.z = true ↔ s.a = m s) ∧
    (t.flags.n = true ↔ 128 ≤ (s.a.toNat + 256 - (m s).toNat) % 256) ∧
    t = { s with flags := { s.flags with c := t.flags.c, z := t.flags.z, n := t.flags.n } } ∧ SameMemory s t)

/-! ## Branches and control -/

/-- 44_branch.md R88 to R90: BNE, BEQ and BPL add the signed offset to the PC after the offset byte when Z is 0, Z is 1
or N is 0, and leave it otherwise; nothing else changes. The opcode bytes rest on the spec's decision D1. -/
def Obligations.BranchesAddTheOffsetWhenTaken : Prop :=
  (∀ off, Encoded (.bne off) .attested [0xD0#8, off]) ∧ (∀ off, Encoded (.beq off) .attested [0xF0#8, off]) ∧
  (∀ off, Encoded (.bpl off) .attested [0x10#8, off]) ∧
  ∀ (s : State) (off : Byte) (i : Instr) (taken : Prop),
    (i = .bne off ∧ (taken ↔ s.flags.z = false)) ∨ (i = .beq off ∧ (taken ↔ s.flags.z = true)) ∨
      (i = .bpl off ∧ (taken ↔ s.flags.n = false)) →
    ∃ t, exec i s = .next t ∧ (taken → (t.pc.toNat : Int) = ((s.pc.toNat : Int) + off.toInt) % 65536) ∧
      (¬taken → t.pc = s.pc) ∧ t = { s with pc := t.pc } ∧ SameMemory s t

/-- 45_control.md R91: JSR at `p` (PC is `p + 3` after its fetch) pushes `p + 2`, the high byte at the cell SP names and
the low byte at the cell below it (SP wrapping in page 1), and sets PC to the target. That the pushed address wraps
modulo 65536 is the spec's decision D16. The opcode bytes rest on the spec's decision D1. -/
def Obligations.JsrPushesTheAddressOfItsLastByte : Prop :=
  (∀ addr, Encoded (.jsr addr) .attested [0x20#8, loByte addr, hiByte addr]) ∧
  ∀ (s : State) (addr p : Word), Memory.wf s.mem = true → s.pc = p + 3#16 → ∃ t, exec (.jsr addr) s = .next t ∧
    t.pc = addr ∧ t.sp.toNat = (s.sp.toNat + 254) % 256 ∧
    (stackAddr s.sp).toNat = 0x100 + s.sp.toNat ∧
    (stackAddr (s.sp - 1#8)).toNat = 0x100 + (s.sp.toNat + 255) % 256 ∧
    (memRead t (stackAddr s.sp)).toNat = (p.toNat + 2) % 65536 / 256 ∧
    (memRead t (stackAddr (s.sp - 1#8))).toNat = (p.toNat + 2) % 65536 % 256 ∧
    (∀ b, b ≠ stackAddr s.sp → b ≠ stackAddr (s.sp - 1#8) → memRead t b = memRead s b) ∧
    t = { s with pc := t.pc, sp := t.sp, mem := t.mem }

/-- 45_control.md R92: RTS pulls a word, low byte first, from the two cells above SP in page 1, and sets PC to it plus
1. The opcode bytes rest on the spec's decision D1. -/
def Obligations.RtsPullsThePcAndAddsOne : Prop :=
  Encoded .rts .attested [0x60#8] ∧
  ∀ s : State, ∃ t, exec .rts s = .next t ∧
    t.pc.toNat = ((memRead s (BitVec.ofNat 16 (0x100 + (s.sp.toNat + 2) % 256))).toNat * 256 +
      (memRead s (BitVec.ofNat 16 (0x100 + (s.sp.toNat + 1) % 256))).toNat + 1) % 65536 ∧
    t.sp.toNat = (s.sp.toNat + 2) % 256 ∧ t = { s with pc := t.pc, sp := t.sp } ∧ SameMemory s t

/-- 20_memory.md R39, 45_control.md R91, R92: RTS after JSR comes back to the byte after the JSR with SP restored. -/
def Obligations.RtsUndoesJsr : Prop :=
  ∀ (s : State) (addr : Word), Memory.wf s.mem = true →
    ∃ t u, exec (.jsr addr) s = .next t ∧ exec .rts t = .next u ∧ u = { s with mem := t.mem }

/-- 45_control.md R93: JMP sets PC to its target, unconditionally, and changes nothing else. The opcode bytes rest on
the spec's decision D1. -/
def Obligations.JmpSetsPc : Prop :=
  (∀ addr, Encoded (.jmp addr) .attested [0x4C#8, loByte addr, hiByte addr]) ∧
  ∀ (s : State) (addr : Word), ∃ t, exec (.jmp addr) s = .next t ∧ t = { s with pc := addr } ∧ SameMemory s t

/-- 45_control.md R94, 60_exceptions.md R120: BRK halts the block and changes nothing else; a step at a BRK byte leaves
PC one past it and the counter ticked. That BRK is one byte and changes nothing else is the spec's decision D4. -/
def Obligations.BrkHaltsAndChangesNothingElse : Prop :=
  Encoded .brk .attested [0x00#8] ∧
  (∀ s : State, exec .brk s = .next { s with status := .halted }) ∧
  (∀ s : State, s.status = .running → memRead s s.pc = 0x00#8 → ∃ t, step s = .next t ∧
    t = { s with status := .halted, pc := s.pc + 1#16, icount := s.icount + 1, traceLog := t.traceLog } ∧ SameMemory s t)

/-! ## Stack and transfers -/

/-- 46_stack_transfer.md R95, R97; 20_memory.md R36: PHA and PHP store one byte at the cell SP names and decrement SP
modulo 256. PHA stores A; PHP stores the packed status with bits 5 and 4 set, whatever B is. No flag changes. The
opcode bytes rest on the spec's decision D1. -/
def Obligations.PushesStoreAtSpAndDecrement : Prop :=
  Encoded .pha .attested [0x48#8] ∧ Encoded .php .attested [0x08#8] ∧
  ∀ s : State, Memory.wf s.mem = true →
    (stackAddr s.sp).toNat = 0x100 + s.sp.toNat ∧
    (∃ t, exec .pha s = .next t ∧ t.sp.toNat = (s.sp.toNat + 255) % 256 ∧ StoredOnly s t (stackAddr s.sp) s.a ∧
      t = { s with sp := t.sp, mem := t.mem }) ∧
    (∃ t v, exec .php s = .next t ∧ t.sp.toNat = (s.sp.toNat + 255) % 256 ∧ StoredOnly s t (stackAddr s.sp) v ∧
      t = { s with sp := t.sp, mem := t.mem } ∧
      v.getLsbD 7 = s.flags.n ∧ v.getLsbD 6 = s.flags.v ∧ v.getLsbD 5 = true ∧ v.getLsbD 4 = true ∧
      v.getLsbD 3 = s.flags.d ∧ v.getLsbD 2 = s.flags.i ∧ v.getLsbD 1 = s.flags.z ∧ v.getLsbD 0 = s.flags.c)

/-- 46_stack_transfer.md R96, R98; 20_memory.md R37: PLA and PLP increment SP modulo 256 and read the cell it then
names; no cell is cleared. PLA writes A with Z and N; PLP writes all seven flags, B from bit 4, and ignores bit 5.
The opcode bytes rest on the spec's decision D1. -/
def Obligations.PullsIncrementSpAndRead : Prop :=
  Encoded .pla .attested [0x68#8] ∧ Encoded .plp .attested [0x28#8] ∧
  ∀ (s : State) (v : Byte), v = memRead s (BitVec.ofNat 16 (0x100 + (s.sp.toNat + 1) % 256)) →
    (∃ t, exec .pla s = .next t ∧ t.a = v ∧ ZNof t.flags v ∧ t.sp.toNat = (s.sp.toNat + 1) % 256 ∧
      t = { s with a := t.a, sp := t.sp, flags := { s.flags with z := t.flags.z, n := t.flags.n } } ∧ SameMemory s t) ∧
    (∃ t, exec .plp s = .next t ∧ t.sp.toNat = (s.sp.toNat + 1) % 256 ∧
      t = { s with sp := t.sp, flags := t.flags } ∧ SameMemory s t ∧
      t.flags.n = v.getLsbD 7 ∧ t.flags.v = v.getLsbD 6 ∧ t.flags.b = v.getLsbD 4 ∧ t.flags.d = v.getLsbD 3 ∧
      t.flags.i = v.getLsbD 2 ∧ t.flags.z = v.getLsbD 1 ∧ t.flags.c = v.getLsbD 0)

/-- 46_stack_transfer.md R96 (the source's stack round trip), R98: PLA after PHA restores A and SP; PLP after PHP
restores SP and every flag but B, which it leaves 1. -/
def Obligations.PullsUndoPushes : Prop :=
  ∀ s : State, Memory.wf s.mem = true →
    (∃ t u, exec .pha s = .next t ∧ exec .pla t = .next u ∧ ZNof u.flags s.a ∧
      u = { s with mem := t.mem, flags := { s.flags with z := u.flags.z, n := u.flags.n } }) ∧
    (∃ t u, exec .php s = .next t ∧ exec .plp t = .next u ∧ u = { s with mem := t.mem, flags := { s.flags with b := true } })

/-- 46_stack_transfer.md R99 to R103: TXA, TYA, TAX and TAY copy with Z and N of the destination; TXS copies with no
flag. The opcode bytes rest on the spec's decision D1. -/
def Obligations.TransfersCopyARegister : Prop :=
  Encoded .txa .attested [0x8A#8] ∧ Encoded .tya .attested [0x98#8] ∧ Encoded .tax .attested [0xAA#8] ∧
  Encoded .tay .attested [0xA8#8] ∧ Encoded .txs .attested [0x9A#8] ∧
  ∀ s : State,
    (∃ t, exec .txa s = .next t ∧ ZNof t.flags s.x ∧
      t = { s with a := s.x, flags := { s.flags with z := t.flags.z, n := t.flags.n } } ∧ SameMemory s t) ∧
    (∃ t, exec .tya s = .next t ∧ ZNof t.flags s.y ∧
      t = { s with a := s.y, flags := { s.flags with z := t.flags.z, n := t.flags.n } } ∧ SameMemory s t) ∧
    (∃ t, exec .tax s = .next t ∧ ZNof t.flags s.a ∧
      t = { s with x := s.a, flags := { s.flags with z := t.flags.z, n := t.flags.n } } ∧ SameMemory s t) ∧
    (∃ t, exec .tay s = .next t ∧ ZNof t.flags s.a ∧
      t = { s with y := s.a, flags := { s.flags with z := t.flags.z, n := t.flags.n } } ∧ SameMemory s t) ∧
    (∃ t, exec .txs s = .next t ∧ t = { s with sp := s.x } ∧ SameMemory s t)

/-! ## Shifts, increment, decrement, flags -/

/-- 47_shift_incdec.md R104, R105: ASL and LSR, both forms each: a zero enters and the bit shifted out is the carry. The
opcode bytes rest on the spec's decision D1. -/
def Obligations.ShiftsMoveABitIntoTheCarry : Prop :=
  Encoded .aslAcc .attested [0x0A#8] ∧ (∀ z, Encoded (.aslZp z) .attested [0x06#8, z]) ∧
  Encoded .lsrAcc .attested [0x4A#8] ∧ (∀ z, Encoded (.lsrZp z) .attested [0x46#8, z]) ∧
  Shifts .aslAcc .aslZp (fun v _ => v * 2 % 256) (fun v => 128 ≤ v) ∧
  Shifts .lsrAcc .lsrZp (fun v _ => v / 2) (fun v => v % 2 = 1)

/-- 47_shift_incdec.md R106, R107: ROL and ROR, both forms each: the carry before enters and the bit shifted out is the
new carry. The opcode bytes rest on the spec's decision D1. -/
def Obligations.RotatesGoThroughTheCarry : Prop :=
  Encoded .rolAcc .attested [0x2A#8] ∧ (∀ z, Encoded (.rolZp z) .attested [0x26#8, z]) ∧
  Encoded .rorAcc .attested [0x6A#8] ∧ (∀ z, Encoded (.rorZp z) .attested [0x66#8, z]) ∧
  Shifts .rolAcc .rolZp (fun v c0 => (v * 2 + c0) % 256) (fun v => 128 ≤ v) ∧
  Shifts .rorAcc .rorZp (fun v c0 => v / 2 + c0 * 128) (fun v => v % 2 = 1)

/-- 47_shift_incdec.md R108, R109: INC and DEC change one zero-page byte by 1 modulo 256, with Z and N and no carry. The
opcode bytes rest on the spec's decision D1. -/
def Obligations.IncAndDecChangeOneByte : Prop :=
  (∀ z, Encoded (.incZp z) .attested [0xE6#8, z]) ∧ (∀ z, Encoded (.decZp z) .attested [0xC6#8, z]) ∧
  ∀ (s : State) (z : Byte) (ea : Word), Memory.wf s.mem = true → resolveZp z = .mem ea →
    (∃ t r, exec (.incZp z) s = .next t ∧ r.toNat = ((memRead s ea).toNat + 1) % 256 ∧ ZNof t.flags r ∧
      StoredOnly s t ea r ∧
      t = { s with mem := t.mem, flags := { s.flags with z := t.flags.z, n := t.flags.n } }) ∧
    (∃ t r, exec (.decZp z) s = .next t ∧ r.toNat = ((memRead s ea).toNat + 255) % 256 ∧ ZNof t.flags r ∧
      StoredOnly s t ea r ∧
      t = { s with mem := t.mem, flags := { s.flags with z := t.flags.z, n := t.flags.n } })

/-- 48_flag_ops.md R110 to R116: each flag instruction writes its one flag, which is one bit of the packed status, and
nothing else. The opcode bytes rest on the spec's decision D1. -/
def Obligations.FlagInstructionsWriteOneBit : Prop :=
  Encoded .sec .attested [0x38#8] ∧ Encoded .clc .attested [0x18#8] ∧ Encoded .sei .attested [0x78#8] ∧
  Encoded .cli .attested [0x58#8] ∧ Encoded .sed .attested [0xF8#8] ∧ Encoded .cld .attested [0xD8#8] ∧
  Encoded .clv .attested [0xB8#8] ∧
  ∀ s : State,
    (∃ t, exec .sec s = .next t ∧ t = { s with flags := { s.flags with c := true } } ∧ SameMemory s t ∧
      pack t.flags = pack s.flags ||| 0x01#8) ∧
    (∃ t, exec .clc s = .next t ∧ t = { s with flags := { s.flags with c := false } } ∧ SameMemory s t ∧
      pack t.flags = pack s.flags &&& 0xFE#8) ∧
    (∃ t, exec .sei s = .next t ∧ t = { s with flags := { s.flags with i := true } } ∧ SameMemory s t ∧
      pack t.flags = pack s.flags ||| 0x04#8) ∧
    (∃ t, exec .cli s = .next t ∧ t = { s with flags := { s.flags with i := false } } ∧ SameMemory s t ∧
      pack t.flags = pack s.flags &&& 0xFB#8) ∧
    (∃ t, exec .sed s = .next t ∧ t = { s with flags := { s.flags with d := true } } ∧ SameMemory s t ∧
      pack t.flags = pack s.flags ||| 0x08#8) ∧
    (∃ t, exec .cld s = .next t ∧ t = { s with flags := { s.flags with d := false } } ∧ SameMemory s t ∧
      pack t.flags = pack s.flags &&& 0xF7#8) ∧
    (∃ t, exec .clv s = .next t ∧ t = { s with flags := { s.flags with v := false } } ∧ SameMemory s t ∧
      pack t.flags = pack s.flags &&& 0xBF#8)

/-! ## The status byte, reset and launch -/

/-- 10_state.md R17: SetZN writes Z and N of its byte and nothing else. -/
def Obligations.SetZNWritesZAndNAlone : Prop :=
  ∀ (s : State) (v : Byte), ZNof (setZN s v).flags v ∧
    setZN s v = { s with flags := { s.flags with z := (setZN s v).flags.z, n := (setZN s v).flags.n } }

/-- 10_state.md R18 to R20: the packed status has bit 5 set and one bit per flag; unpacking reads those bits; unpacking
a packed status gives the flags back, and packing an unpacked byte gives it back with bit 5 set. -/
def Obligations.PackAndUnpackRoundTrip : Prop :=
  (∀ f : Flags, (pack f).toNat = bitNat f.n * 0x80 + bitNat f.v * 0x40 + 0x20 + bitNat f.b * 0x10 + bitNat f.d * 0x08 +
    bitNat f.i * 0x04 + bitNat f.z * 0x02 + bitNat f.c) ∧
  (∀ b : Byte, ((unpack b).n = true ↔ 128 ≤ b.toNat) ∧ ((unpack b).v = true ↔ b.toNat / 64 % 2 = 1) ∧
    ((unpack b).b = true ↔ b.toNat / 16 % 2 = 1) ∧ ((unpack b).d = true ↔ b.toNat / 8 % 2 = 1) ∧
    ((unpack b).i = true ↔ b.toNat / 4 % 2 = 1) ∧ ((unpack b).z = true ↔ b.toNat / 2 % 2 = 1) ∧
    ((unpack b).c = true ↔ b.toNat % 2 = 1)) ∧
  (∀ f : Flags, unpack (pack f) = f) ∧ (∀ b : Byte, pack (unpack b) = b ||| 0x20#8)

/-- 70_reset_and_hazards.md R140 to R144: reset sets SP to 0xFD, the packed status to 0x24, PC from the vector and the
status to Running, and writes nothing else. That it sets the status and keeps the rest is the spec's decision D6. -/
def Obligations.ResetSetsSpStatusAndPcOnly : Prop :=
  ∀ s : State, ∃ t, hostCall s .reset = .next t ∧ t.sp = 0xFD#8 ∧ pack t.flags = 0x24#8 ∧
    t.flags = { n := false, v := false, b := false, d := false, i := true, z := false, c := false } ∧
    t.pc.toNat = (memRead s 0xFFFD#16).toNat * 256 + (memRead s 0xFFFC#16).toNat ∧ t.status = .running ∧
    t = { s with sp := t.sp, flags := t.flags, pc := t.pc, status := t.status } ∧ SameMemory s t

/-- 70_reset_and_hazards.md R145, R146: the launch state is reset applied to the power-on state, whatever SP, the flags,
PC and the status were; and State.reset is a launch with no candidate admitted. The zero registers and the empty
image of State.reset are the model's choice (log entries 1 and 2). That the launch is such a reset is the spec's
decision D19. -/
def Obligations.LaunchIsResetOfThePowerOnState : Prop :=
  (∀ (p : Launch) (s : State), s.a = p.a0 → s.x = p.x0 → s.y = p.y0 → s.mem = p.mem0 → s.icount = 0 → s.ppuLog = [] →
    s.traceLog = [] → s.candidates = p.candidateOpcodes → hostCall s .reset = .next (State.launch p)) ∧
  State.reset = State.launch Launch.default ∧ State.reset.candidates = []

/-- 10_state.md R27, 70_reset_and_hazards.md R146: the loader writes the array itself, in the PPU window too, at
consecutive addresses modulo 65536; a launch reads those bytes, and starts at the vector the loader wrote. It rests
on the spec's decisions D17 and D19. -/
def Obligations.LaunchReadsTheLoadersBytes : Prop :=
  (∀ (p : Launch) (addr : Word) (bytes : List Byte), Memory.wf p.mem0 = true → bytes.length ≤ 65536 →
    (∀ (k : Nat) (v : Byte), bytes[k]? = some v →
      memRead (State.launch (loadImage p addr bytes)) (addr + BitVec.ofNat 16 k) = v) ∧
    (∀ b : Word, (∀ k, k < bytes.length → b ≠ addr + BitVec.ofNat 16 k) →
      memRead (State.launch (loadImage p addr bytes)) b = memRead (State.launch p) b)) ∧
  (∀ (p : Launch) (entry : Word), Memory.wf p.mem0 = true → (State.launch (loadVector p entry)).pc = entry)

/-- The model's own load hook (log entry 10), resting on 10_state.md R27 and 40_dispatch.md R66: the very next step
after `withFetchWord` runs the instruction that the decoder reads from the opcode-table word. -/
def Obligations.PlacedTableWordIsTheNextInstruction : Prop :=
  ∀ (s : State) (nbits w : Nat) (i : Instr), Memory.wf s.mem = true → decodeTableWord nbits w = some i →
    ∃ t u, step (s.withFetchWord nbits w) = .next t ∧
      exec i { s.withFetchWord nbits w with icount := s.icount + 1, pc := s.pc + BitVec.ofNat 16 i.length } = .next u ∧
      t = { u with traceLog := t.traceLog }

/-! ## The whole machine -/

/-- 20_memory.md R48: of all instructions only STA writes the PPU, at most one entry; the zero-page shifts, INC and DEC
reach only the zero page, PHA, PHP and JSR only the stack page, and every other instruction but STA stores nothing.
-/
def Obligations.StoresReachOnlyTheirPages : Prop :=
  ∀ (i : Instr) (s t : State), exec i s = .next t →
    (i.mnemonic ≠ .sta → t.ppuLog = s.ppuLog) ∧
    (t.ppuLog = s.ppuLog ∨ ∃ w, t.ppuLog = s.ppuLog ++ [w] ∧ w.value = s.a) ∧
    (i.mnemonic ∈ [Mnemonic.asl, .lsr, .rol, .ror, .inc, .dec] → ∀ b : Word, 0xFF < b.toNat → memRead t b = memRead s b) ∧
    (i.mnemonic ∈ [Mnemonic.pha, .php, .jsr] →
      ∀ b : Word, b.toNat < 0x100 ∨ 0x1FF < b.toNat → memRead t b = memRead s b) ∧
    (i.mnemonic ∉ [Mnemonic.asl, .lsr, .rol, .ror, .inc, .dec, .pha, .php, .jsr, .sta] → SameMemory s t)

/-- 20_memory.md R47: from any launch, by any resets and steps, a read in 0x2000 to 0x3FFF gives what the loader left.
-/
def Obligations.PpuWindowReadsWhatTheLoaderLeft : Prop :=
  ∀ (p : Launch) (s : State), Reachable p s → ∀ b : Word, 0x2000 ≤ b.toNat → b.toNat ≤ 0x3FFF →
    memRead s b = Memory.readByte p.mem0 b.toNat

/-- 20_memory.md R47, 10_state.md R10: in any state, no reset and no step changes a byte of the PPU window or the
parameter CANDIDATE_OPCODES. That the parameter is a field no step changes is the model's choice (log entry 3). -/
def Obligations.NoTransactionStoresInThePpuWindow : Prop :=
  ∀ (s t : State) (c : HostCall), hostCall s c = .next t →
    t.candidates = s.candidates ∧
    ∀ b : Word, 0x2000 ≤ b.toNat → b.toNat ≤ 0x3FFF → memRead t b = memRead s b

/-- 10_state.md R11 to R14 (written by): X is written only by TAX, Y only by TAY, A and SP only by the instructions
listed; no instruction writes the counter, the trace or the parameter, and only BRK the status. The clause on the
parameter is the model's choice (log entry 3). -/
def Obligations.RegistersHaveOnlyTheirWriters : Prop :=
  ∀ (i : Instr) (s t : State), exec i s = .next t →
    (i.mnemonic ≠ .tax → t.x = s.x) ∧ (i.mnemonic ≠ .tay → t.y = s.y) ∧
    (i.mnemonic ∉ [Mnemonic.lda, .adc, .sbc, .and, .ora, .eor, .pla, .txa, .tya] ∧ i.format ≠ .acc → t.a = s.a) ∧
    (i.mnemonic ∉ [Mnemonic.txs, .pha, .pla, .php, .plp, .jsr, .rts] → t.sp = s.sp) ∧
    (i.mnemonic ∉ [Mnemonic.bne, .beq, .bpl, .jsr, .rts, .jmp] → t.pc = s.pc) ∧
    (i.mnemonic ≠ .brk → t.status = s.status) ∧
    t.icount = s.icount ∧ t.traceLog = s.traceLog ∧ t.candidates = s.candidates

/-- 10_state.md section 3 (the table of each flag's writers): each flag is changed only by the instructions listed for
it. -/
def Obligations.FlagsHaveOnlyTheirWriters : Prop :=
  ∀ (i : Instr) (s t : State), exec i s = .next t →
    (i.mnemonic ∉ [Mnemonic.lda, .adc, .sbc, .and, .ora, .eor, .cmp, .pla, .txa, .tya, .tax, .tay, .asl, .lsr, .rol, .ror,
      .inc, .dec, .plp] → t.flags.n = s.flags.n ∧ t.flags.z = s.flags.z) ∧
    (i.mnemonic ∉ [Mnemonic.adc, .sbc, .clv, .plp] → t.flags.v = s.flags.v) ∧
    (i.mnemonic ≠ .plp → t.flags.b = s.flags.b) ∧
    (i.mnemonic ∉ [Mnemonic.sed, .cld, .plp] → t.flags.d = s.flags.d) ∧
    (i.mnemonic ∉ [Mnemonic.sei, .cli, .plp] → t.flags.i = s.flags.i) ∧
    (i.mnemonic ∉ [Mnemonic.adc, .sbc, .cmp, .asl, .lsr, .rol, .ror, .sec, .clc, .plp] → t.flags.c = s.flags.c)

/-- 10_state.md R28: a flag affects only the instructions that read it: N is read by BPL, Z by BNE and BEQ, C by ADC,
SBC, ROL and ROR, and V, B, D and I by PHP alone. Any other change of the flags before an instruction changes
nothing after it but flags that the instruction leaves as they were. -/
def Obligations.FlagsAffectOnlyTheirReaders : Prop :=
  ∀ (i : Instr) (s : State) (f : Flags), i.mnemonic ≠ .php →
    (i.mnemonic = .bpl → f.n = s.flags.n) → (i.mnemonic = .bne ∨ i.mnemonic = .beq → f.z = s.flags.z) →
    (i.mnemonic ∈ [Mnemonic.adc, .sbc, .rol, .ror] → f.c = s.flags.c) →
    ∃ t u, exec i s = .next t ∧ exec i { s with flags := f } = .next u ∧ u = { t with flags := u.flags } ∧
      (u.flags.n = t.flags.n ∨ u.flags.n = f.n ∧ t.flags.n = s.flags.n) ∧
      (u.flags.v = t.flags.v ∨ u.flags.v = f.v ∧ t.flags.v = s.flags.v) ∧
      (u.flags.b = t.flags.b ∨ u.flags.b = f.b ∧ t.flags.b = s.flags.b) ∧
      (u.flags.d = t.flags.d ∨ u.flags.d = f.d ∧ t.flags.d = s.flags.d) ∧
      (u.flags.i = t.flags.i ∨ u.flags.i = f.i ∧ t.flags.i = s.flags.i) ∧
      (u.flags.z = t.flags.z ∨ u.flags.z = f.z ∧ t.flags.z = s.flags.z) ∧
      (u.flags.c = t.flags.c ∨ u.flags.c = f.c ∧ t.flags.c = s.flags.c)

/-- 10_state.md R21, R23, R24: no step depends on the counter, the PPU log or the trace: with others in their place the
rest of the state goes the same way, and the same writes are appended. The counter and the logs are as the spec's
decisions D8, D10 and D11 have them. -/
def Obligations.LogsAndCounterAreNeverRead : Prop :=
  ∀ (s t : State) (k : Nat) (pl : List PpuWrite) (tl : List TraceRecord), step s = .next t →
    ∃ u added, step { s with icount := k, ppuLog := pl, traceLog := tl } = .next u ∧
      u = { t with icount := u.icount, ppuLog := u.ppuLog, traceLog := u.traceLog } ∧
      t.ppuLog = s.ppuLog ++ added ∧ u.ppuLog = pl ++ added

/-- The invariant of Safety.lean holds again after every step and every reset, from every state that meets it. The
invariant's clauses on the logs and the counter follow the spec's decisions D8, D10 and D11; its memory form and its
candidates field are the model's (log entries 2 and 3). -/
def Obligations.TransactionsKeepTheInvariant : Prop :=
  (∀ s t : State, s.Inv → step s = .next t → t.Inv) ∧ (∀ s : State, s.Inv → (hostReset s).Inv)

/-- The invariant of Safety.lean holds in every launch state of well-formed parameters, State.reset among them. It is
the model's own (log entries 1 to 3). -/
def Obligations.LaunchStatesMeetTheInvariant : Prop :=
  (∀ p : Launch, p.wf = true → (State.launch p).Inv) ∧ State.reset.Inv
end

