-- ==== Sys2Proof/Laws/Bytes.lean ====
section
/-! SUPPORT. The byte, word and flag helpers as arithmetic: what each says of numbers. -/

namespace Sys2Proof.Machine

theorem wordOf_toNat (h l : Byte) : (wordOf h l).toNat = h.toNat * 256 + l.toNat := by
  have := h.isLt
  have := l.isLt
  simp only [wordOf, BitVec.toNat_ofNat]
  omega

@[simp] theorem wordOf_hiByte_loByte (w : Word) : wordOf (hiByte w) (loByte w) = w := by
  apply BitVec.eq_of_toNat_eq
  have := w.isLt
  simp only [wordOf, hiByte, loByte, BitVec.toNat_ofNat]
  omega

@[simp] theorem hiByte_wordOf (h l : Byte) : hiByte (wordOf h l) = h := by
  apply BitVec.eq_of_toNat_eq
  have := h.isLt
  have := l.isLt
  simp only [hiByte, wordOf_toNat, BitVec.toNat_ofNat]
  omega

@[simp] theorem loByte_wordOf (h l : Byte) : loByte (wordOf h l) = l := by
  apply BitVec.eq_of_toNat_eq
  have := h.isLt
  have := l.isLt
  simp only [loByte, wordOf_toNat, BitVec.toNat_ofNat]
  omega

theorem bit7_iff (v : Byte) : bit7 v = true ↔ 128 ≤ v.toNat := by
  have h : bit7 v = v.msb := rfl
  simp [h, BitVec.msb_eq_decide]

theorem bit0_iff (v : Byte) : bit0 v = true ↔ v.toNat % 2 = 1 := by
  simp [bit0, BitVec.getLsbD, Nat.testBit_zero]

theorem bitNat_le_one (f : Bool) : bitNat f ≤ 1 := by cases f <;> decide

theorem sub_one_toNat (v : Byte) : (v - 1#8).toNat = (v.toNat + 255) % 256 := by
  rw [BitVec.toNat_sub, Nat.add_comm]
  rfl

/-- After SetZN, Z and N are those of the byte (10_state.md R17). -/
theorem ZNof_setZN (f : Flags) (v : Byte) : ZNof (f.setZN v) v := by
  refine ⟨?_, bit7_iff v⟩
  show (v == 0x00#8) = true ↔ v.toNat = 0
  simp [BitVec.toNat_eq]

theorem adcResult_toNat (a m : Byte) (c : Bool) :
    (adcResult a m c).toNat = (a.toNat + m.toNat + bitNat c) % 256 := by simp [adcResult, adcSum]

theorem adcCarry_iff (a m : Byte) (c : Bool) : adcCarry a m c = true ↔ 255 < a.toNat + m.toNat + bitNat c := by
  simp [adcCarry, adcSum]

theorem sbcResult_toNat (a m : Byte) (c : Bool) :
    ((sbcResult a m c).toNat : Int) = ((a.toNat : Int) - m.toNat - (1 - bitNat c)) % 256 := by
  simp only [sbcResult, sbcDiff, BitVec.toNat_ofInt]
  omega

theorem sbcCarry_iff (a m : Byte) (c : Bool) :
    sbcCarry a m c = true ↔ 0 ≤ (a.toNat : Int) - m.toNat - (1 - bitNat c) := by
  simp [sbcCarry, sbcDiff]

end Sys2Proof.Machine
end

