-- ==== Sys2Proof/Laws/Encoding.lean ====
section
/-! SUPPORT. What a lookup in the opcode table can answer. -/

namespace Sys2Proof

/-- A row that the admitted table gives is a row of the table, of that byte, and admitted (30_encoding.md R53). -/
theorem admittedRow_eq_some {cs : List Byte} {op : Byte} {r : Row} (h : admittedRow cs op = some r) :
    r ∈ opcodeTable ∧ r.opcode = op ∧ admits cs r = true := by
  unfold admittedRow at h
  cases hf : findRow op with
  | none => simp [hf] at h
  | some r' =>
    simp only [hf] at h
    split at h
    · cases h
      exact ⟨List.mem_of_find?_eq_some hf, by simpa using List.find?_some hf, ‹_›⟩
    · cases h

/-- Each row of the table makes an instruction of that row's byte and tier, whatever the operand. -/
theorem shape_of_mem {r : Row} (h : r ∈ opcodeTable) :
    (∃ i, r.shape = .bare i ∧ i.opcode = r.opcode ∧ i.tier = r.tier ∧ i.operandBytes = []) ∨
    (∃ mk, r.shape = .byte mk ∧ ∀ b, (mk b).opcode = r.opcode ∧ (mk b).tier = r.tier ∧ (mk b).operandBytes = [b]) ∨
    (∃ mk, r.shape = .word mk ∧
      ∀ w, (mk w).opcode = r.opcode ∧ (mk w).tier = r.tier ∧ (mk w).operandBytes = wordBytes w) := by
  simp only [opcodeTable, rows00to38, rows45to78, rows85toB8, rowsC5toF8, List.mem_append, List.mem_cons,
    List.not_mem_nil, or_false] at h
  rcases h with ((h | h) | h) | h <;> (repeat' (rcases h with h | h)) <;> first
    | exact .inl ⟨_, rfl, rfl, rfl, rfl⟩
    | exact .inr (.inl ⟨_, rfl, fun _ => ⟨rfl, rfl, rfl⟩⟩)
    | exact .inr (.inr ⟨_, rfl, fun _ => ⟨rfl, rfl, rfl⟩⟩)

/-- A word's bytes, read back. -/
theorem wordBytes_wordOf (hi lo : Byte) : wordBytes (Machine.wordOf hi lo) = [lo, hi] := by simp [wordBytes]

end Sys2Proof
end

