-- ==== Sys2Proof/Laws/Memory.lean ====
section
/-! SUPPORT. The laws of the memory array: a read after a write, other cells untouched, the canonical form kept, and
canonical memories that read alike are equal. -/

namespace Sys2Proof.Machine

theorem Memory.wfFrom_cons {lo k : Nat} {w : Byte} {m : Memory} :
    Memory.wfFrom lo ((k, w) :: m) = true ↔
      lo ≤ k ∧ k < 65536 ∧ w ≠ Memory.unlisted ∧ Memory.wfFrom (k + 1) m = true := by
  simp [Memory.wfFrom, and_assoc]

theorem Memory.wfFrom_mono {m : Memory} {lo lo' : Nat} (h : lo' ≤ lo) (hw : Memory.wfFrom lo m = true) :
    Memory.wfFrom lo' m = true := by
  cases m with
  | nil => rfl
  | cons c m =>
    obtain ⟨k, w⟩ := c
    rw [Memory.wfFrom_cons] at hw ⊢
    exact ⟨by omega, hw.2⟩

/-- Below its first address a canonical memory lists nothing. -/
theorem Memory.readByte_below {m : Memory} {lo a : Nat} (hw : Memory.wfFrom lo m = true) (h : a < lo) :
    Memory.readByte m a = Memory.unlisted := by
  induction m generalizing lo with
  | nil => rfl
  | cons c m ih =>
    obtain ⟨k, w⟩ := c
    rw [Memory.wfFrom_cons] at hw
    have hk : k ≠ a := by omega
    simp only [Memory.readByte, if_neg hk]
    exact ih hw.2.2.2 (by omega)

theorem Memory.readByte_cellOf (a : Nat) (v : Byte) (m : Memory) (h : Memory.readByte m a = Memory.unlisted) :
    Memory.readByte (Memory.cellOf a v ++ m) a = v := by
  unfold Memory.cellOf
  split <;> simp_all [Memory.readByte]

theorem Memory.readByte_cellOf_ne {a b : Nat} (v : Byte) (m : Memory) (h : b ≠ a) :
    Memory.readByte (Memory.cellOf a v ++ m) b = Memory.readByte m b := by
  unfold Memory.cellOf
  split
  · rfl
  · simp [Memory.readByte, Ne.symm h]

theorem Memory.readByte_writeByte_same_from {m : Memory} {lo : Nat} (a : Nat) (v : Byte)
    (hw : Memory.wfFrom lo m = true) : Memory.readByte (Memory.writeByte m a v) a = v := by
  induction m generalizing lo with
  | nil => simpa [Memory.writeByte] using Memory.readByte_cellOf a v [] rfl
  | cons c m ih =>
    obtain ⟨k, w⟩ := c
    have hw' := Memory.wfFrom_cons.1 hw
    unfold Memory.writeByte
    split
    · have hk : k ≠ a := by omega
      simp only [Memory.readByte, if_neg hk]
      exact ih hw'.2.2.2
    · split
      · exact Memory.readByte_cellOf a v m (Memory.readByte_below hw'.2.2.2 (by omega))
      · exact Memory.readByte_cellOf a v _
          (Memory.readByte_below (lo := k) (Memory.wfFrom_cons.2 ⟨Nat.le_refl k, hw'.2⟩) (by omega))

/-- A read after a write to the same cell gives the byte written. -/
theorem Memory.readByte_writeByte_same {m : Memory} (a : Nat) (v : Byte) (hw : Memory.wf m = true) :
    Memory.readByte (Memory.writeByte m a v) a = v :=
  Memory.readByte_writeByte_same_from a v hw

/-- A write leaves every other cell alone. -/
theorem Memory.readByte_writeByte_ne (m : Memory) {a b : Nat} (v : Byte) (h : b ≠ a) :
    Memory.readByte (Memory.writeByte m a v) b = Memory.readByte m b := by
  induction m with
  | nil => simpa [Memory.writeByte] using Memory.readByte_cellOf_ne v [] h
  | cons c m ih =>
    obtain ⟨k, w⟩ := c
    unfold Memory.writeByte
    split
    · simp only [Memory.readByte, ih]
    · split
      · subst k
        rw [Memory.readByte_cellOf_ne v m h]
        simp [Memory.readByte, Ne.symm h]
      · exact Memory.readByte_cellOf_ne v _ h

theorem Memory.wfFrom_cellOf {m : Memory} {lo a : Nat} (v : Byte) (hlo : lo ≤ a) (ha : a < 65536)
    (hw : Memory.wfFrom (a + 1) m = true) : Memory.wfFrom lo (Memory.cellOf a v ++ m) = true := by
  unfold Memory.cellOf
  split
  · exact Memory.wfFrom_mono (by omega) hw
  · exact Memory.wfFrom_cons.2 ⟨hlo, ha, ‹_›, hw⟩

theorem Memory.wfFrom_writeByte {m : Memory} {lo a : Nat} (v : Byte) (hlo : lo ≤ a) (ha : a < 65536)
    (hw : Memory.wfFrom lo m = true) : Memory.wfFrom lo (Memory.writeByte m a v) = true := by
  induction m generalizing lo with
  | nil => simpa [Memory.writeByte] using Memory.wfFrom_cellOf (m := []) v hlo ha rfl
  | cons c m ih =>
    obtain ⟨k, w⟩ := c
    have hw' := Memory.wfFrom_cons.1 hw
    unfold Memory.writeByte
    split
    · exact Memory.wfFrom_cons.2 ⟨hw'.1, hw'.2.1, hw'.2.2.1, ih (by omega) hw'.2.2.2⟩
    · split
      · exact Memory.wfFrom_cellOf v hlo ha (by subst k; exact hw'.2.2.2)
      · exact Memory.wfFrom_cellOf v hlo ha (Memory.wfFrom_cons.2 ⟨by omega, hw'.2⟩)

/-- A write keeps the canonical form. -/
theorem Memory.wf_writeByte {m : Memory} {a : Nat} (v : Byte) (ha : a < 65536) (hw : Memory.wf m = true) :
    Memory.wf (Memory.writeByte m a v) = true :=
  Memory.wfFrom_writeByte v (Nat.zero_le a) ha hw

theorem Memory.eq_of_reads_from {m m' : Memory} {lo : Nat} (hw : Memory.wfFrom lo m = true)
    (hw' : Memory.wfFrom lo m' = true) (h : ∀ a, Memory.readByte m a = Memory.readByte m' a) : m = m' := by
  induction m generalizing m' lo with
  | nil =>
    cases m' with
    | nil => rfl
    | cons c' m' =>
      obtain ⟨k', w'⟩ := c'
      have hk := h k'
      simp only [Memory.readByte, if_true] at hk
      exact absurd hk.symm (Memory.wfFrom_cons.1 hw').2.2.1
  | cons c m ih =>
    obtain ⟨k, w⟩ := c
    have hc := Memory.wfFrom_cons.1 hw
    cases m' with
    | nil =>
      have hk := h k
      simp only [Memory.readByte, if_true] at hk
      exact absurd hk hc.2.2.1
    | cons c' m' =>
      obtain ⟨k', w'⟩ := c'
      have hc' := Memory.wfFrom_cons.1 hw'
      have hkk : k = k' := by
        rcases Nat.lt_trichotomy k k' with hlt | heq | hgt
        · have hk := h k
          rw [Memory.readByte_below (m := (k', w') :: m') (lo := k')
            (Memory.wfFrom_cons.2 ⟨Nat.le_refl _, hc'.2⟩) hlt] at hk
          simp only [Memory.readByte, if_true] at hk
          exact absurd hk hc.2.2.1
        · exact heq
        · have hk := h k'
          rw [Memory.readByte_below (m := (k, w) :: m) (lo := k)
            (Memory.wfFrom_cons.2 ⟨Nat.le_refl _, hc.2⟩) hgt] at hk
          simp only [Memory.readByte, if_true] at hk
          exact absurd hk.symm hc'.2.2.1
      subst hkk
      have hww : w = w' := by simpa [Memory.readByte] using h k
      subst hww
      refine congrArg _ (ih hc.2.2.2 hc'.2.2.2 fun a => ?_)
      by_cases hka : k = a
      · subst hka
        rw [Memory.readByte_below hc.2.2.2 (Nat.lt_succ_self k), Memory.readByte_below hc'.2.2.2 (Nat.lt_succ_self k)]
      · simpa [Memory.readByte, hka] using h a

/-- Canonical memories that read alike are equal. -/
theorem Memory.eq_of_reads {m m' : Memory} (hw : Memory.wf m = true) (hw' : Memory.wf m' = true)
    (h : ∀ a, Memory.readByte m a = Memory.readByte m' a) : m = m' :=
  Memory.eq_of_reads_from hw hw' h

end Sys2Proof.Machine
end

