-- ==== Sys2Proof/Laws/State.lean ====
section
/-! SUPPORT. One lemma per field per update of State and of Flags, true by rfl, so that no later proof unfolds an update. -/

namespace Sys2Proof.Machine

variable (s : State)

@[simp] theorem State.withA_a (v : Byte) : (s.withA v).a = v := rfl
@[simp] theorem State.withA_x (v : Byte) : (s.withA v).x = s.x := rfl
@[simp] theorem State.withA_y (v : Byte) : (s.withA v).y = s.y := rfl
@[simp] theorem State.withA_sp (v : Byte) : (s.withA v).sp = s.sp := rfl
@[simp] theorem State.withA_pc (v : Byte) : (s.withA v).pc = s.pc := rfl
@[simp] theorem State.withA_flags (v : Byte) : (s.withA v).flags = s.flags := rfl
@[simp] theorem State.withA_mem (v : Byte) : (s.withA v).mem = s.mem := rfl
@[simp] theorem State.withA_icount (v : Byte) : (s.withA v).icount = s.icount := rfl
@[simp] theorem State.withA_status (v : Byte) : (s.withA v).status = s.status := rfl
@[simp] theorem State.withA_ppuLog (v : Byte) : (s.withA v).ppuLog = s.ppuLog := rfl
@[simp] theorem State.withA_traceLog (v : Byte) : (s.withA v).traceLog = s.traceLog := rfl
@[simp] theorem State.withA_candidates (v : Byte) : (s.withA v).candidates = s.candidates := rfl

@[simp] theorem State.withX_a (v : Byte) : (s.withX v).a = s.a := rfl
@[simp] theorem State.withX_x (v : Byte) : (s.withX v).x = v := rfl
@[simp] theorem State.withX_y (v : Byte) : (s.withX v).y = s.y := rfl
@[simp] theorem State.withX_sp (v : Byte) : (s.withX v).sp = s.sp := rfl
@[simp] theorem State.withX_pc (v : Byte) : (s.withX v).pc = s.pc := rfl
@[simp] theorem State.withX_flags (v : Byte) : (s.withX v).flags = s.flags := rfl
@[simp] theorem State.withX_mem (v : Byte) : (s.withX v).mem = s.mem := rfl
@[simp] theorem State.withX_icount (v : Byte) : (s.withX v).icount = s.icount := rfl
@[simp] theorem State.withX_status (v : Byte) : (s.withX v).status = s.status := rfl
@[simp] theorem State.withX_ppuLog (v : Byte) : (s.withX v).ppuLog = s.ppuLog := rfl
@[simp] theorem State.withX_traceLog (v : Byte) : (s.withX v).traceLog = s.traceLog := rfl
@[simp] theorem State.withX_candidates (v : Byte) : (s.withX v).candidates = s.candidates := rfl

@[simp] theorem State.withY_a (v : Byte) : (s.withY v).a = s.a := rfl
@[simp] theorem State.withY_x (v : Byte) : (s.withY v).x = s.x := rfl
@[simp] theorem State.withY_y (v : Byte) : (s.withY v).y = v := rfl
@[simp] theorem State.withY_sp (v : Byte) : (s.withY v).sp = s.sp := rfl
@[simp] theorem State.withY_pc (v : Byte) : (s.withY v).pc = s.pc := rfl
@[simp] theorem State.withY_flags (v : Byte) : (s.withY v).flags = s.flags := rfl
@[simp] theorem State.withY_mem (v : Byte) : (s.withY v).mem = s.mem := rfl
@[simp] theorem State.withY_icount (v : Byte) : (s.withY v).icount = s.icount := rfl
@[simp] theorem State.withY_status (v : Byte) : (s.withY v).status = s.status := rfl
@[simp] theorem State.withY_ppuLog (v : Byte) : (s.withY v).ppuLog = s.ppuLog := rfl
@[simp] theorem State.withY_traceLog (v : Byte) : (s.withY v).traceLog = s.traceLog := rfl
@[simp] theorem State.withY_candidates (v : Byte) : (s.withY v).candidates = s.candidates := rfl

@[simp] theorem State.withSp_a (v : Byte) : (s.withSp v).a = s.a := rfl
@[simp] theorem State.withSp_x (v : Byte) : (s.withSp v).x = s.x := rfl
@[simp] theorem State.withSp_y (v : Byte) : (s.withSp v).y = s.y := rfl
@[simp] theorem State.withSp_sp (v : Byte) : (s.withSp v).sp = v := rfl
@[simp] theorem State.withSp_pc (v : Byte) : (s.withSp v).pc = s.pc := rfl
@[simp] theorem State.withSp_flags (v : Byte) : (s.withSp v).flags = s.flags := rfl
@[simp] theorem State.withSp_mem (v : Byte) : (s.withSp v).mem = s.mem := rfl
@[simp] theorem State.withSp_icount (v : Byte) : (s.withSp v).icount = s.icount := rfl
@[simp] theorem State.withSp_status (v : Byte) : (s.withSp v).status = s.status := rfl
@[simp] theorem State.withSp_ppuLog (v : Byte) : (s.withSp v).ppuLog = s.ppuLog := rfl
@[simp] theorem State.withSp_traceLog (v : Byte) : (s.withSp v).traceLog = s.traceLog := rfl
@[simp] theorem State.withSp_candidates (v : Byte) : (s.withSp v).candidates = s.candidates := rfl

@[simp] theorem State.withPc_a (v : Word) : (s.withPc v).a = s.a := rfl
@[simp] theorem State.withPc_x (v : Word) : (s.withPc v).x = s.x := rfl
@[simp] theorem State.withPc_y (v : Word) : (s.withPc v).y = s.y := rfl
@[simp] theorem State.withPc_sp (v : Word) : (s.withPc v).sp = s.sp := rfl
@[simp] theorem State.withPc_pc (v : Word) : (s.withPc v).pc = v := rfl
@[simp] theorem State.withPc_flags (v : Word) : (s.withPc v).flags = s.flags := rfl
@[simp] theorem State.withPc_mem (v : Word) : (s.withPc v).mem = s.mem := rfl
@[simp] theorem State.withPc_icount (v : Word) : (s.withPc v).icount = s.icount := rfl
@[simp] theorem State.withPc_status (v : Word) : (s.withPc v).status = s.status := rfl
@[simp] theorem State.withPc_ppuLog (v : Word) : (s.withPc v).ppuLog = s.ppuLog := rfl
@[simp] theorem State.withPc_traceLog (v : Word) : (s.withPc v).traceLog = s.traceLog := rfl
@[simp] theorem State.withPc_candidates (v : Word) : (s.withPc v).candidates = s.candidates := rfl

@[simp] theorem State.withFlags_a (v : Flags) : (s.withFlags v).a = s.a := rfl
@[simp] theorem State.withFlags_x (v : Flags) : (s.withFlags v).x = s.x := rfl
@[simp] theorem State.withFlags_y (v : Flags) : (s.withFlags v).y = s.y := rfl
@[simp] theorem State.withFlags_sp (v : Flags) : (s.withFlags v).sp = s.sp := rfl
@[simp] theorem State.withFlags_pc (v : Flags) : (s.withFlags v).pc = s.pc := rfl
@[simp] theorem State.withFlags_flags (v : Flags) : (s.withFlags v).flags = v := rfl
@[simp] theorem State.withFlags_mem (v : Flags) : (s.withFlags v).mem = s.mem := rfl
@[simp] theorem State.withFlags_icount (v : Flags) : (s.withFlags v).icount = s.icount := rfl
@[simp] theorem State.withFlags_status (v : Flags) : (s.withFlags v).status = s.status := rfl
@[simp] theorem State.withFlags_ppuLog (v : Flags) : (s.withFlags v).ppuLog = s.ppuLog := rfl
@[simp] theorem State.withFlags_traceLog (v : Flags) : (s.withFlags v).traceLog = s.traceLog := rfl
@[simp] theorem State.withFlags_candidates (v : Flags) : (s.withFlags v).candidates = s.candidates := rfl

@[simp] theorem State.withMem_a (v : Memory) : (s.withMem v).a = s.a := rfl
@[simp] theorem State.withMem_x (v : Memory) : (s.withMem v).x = s.x := rfl
@[simp] theorem State.withMem_y (v : Memory) : (s.withMem v).y = s.y := rfl
@[simp] theorem State.withMem_sp (v : Memory) : (s.withMem v).sp = s.sp := rfl
@[simp] theorem State.withMem_pc (v : Memory) : (s.withMem v).pc = s.pc := rfl
@[simp] theorem State.withMem_flags (v : Memory) : (s.withMem v).flags = s.flags := rfl
@[simp] theorem State.withMem_mem (v : Memory) : (s.withMem v).mem = v := rfl
@[simp] theorem State.withMem_icount (v : Memory) : (s.withMem v).icount = s.icount := rfl
@[simp] theorem State.withMem_status (v : Memory) : (s.withMem v).status = s.status := rfl
@[simp] theorem State.withMem_ppuLog (v : Memory) : (s.withMem v).ppuLog = s.ppuLog := rfl
@[simp] theorem State.withMem_traceLog (v : Memory) : (s.withMem v).traceLog = s.traceLog := rfl
@[simp] theorem State.withMem_candidates (v : Memory) : (s.withMem v).candidates = s.candidates := rfl

@[simp] theorem State.withIcount_a (v : Nat) : (s.withIcount v).a = s.a := rfl
@[simp] theorem State.withIcount_x (v : Nat) : (s.withIcount v).x = s.x := rfl
@[simp] theorem State.withIcount_y (v : Nat) : (s.withIcount v).y = s.y := rfl
@[simp] theorem State.withIcount_sp (v : Nat) : (s.withIcount v).sp = s.sp := rfl
@[simp] theorem State.withIcount_pc (v : Nat) : (s.withIcount v).pc = s.pc := rfl
@[simp] theorem State.withIcount_flags (v : Nat) : (s.withIcount v).flags = s.flags := rfl
@[simp] theorem State.withIcount_mem (v : Nat) : (s.withIcount v).mem = s.mem := rfl
@[simp] theorem State.withIcount_icount (v : Nat) : (s.withIcount v).icount = v := rfl
@[simp] theorem State.withIcount_status (v : Nat) : (s.withIcount v).status = s.status := rfl
@[simp] theorem State.withIcount_ppuLog (v : Nat) : (s.withIcount v).ppuLog = s.ppuLog := rfl
@[simp] theorem State.withIcount_traceLog (v : Nat) : (s.withIcount v).traceLog = s.traceLog := rfl
@[simp] theorem State.withIcount_candidates (v : Nat) : (s.withIcount v).candidates = s.candidates := rfl

@[simp] theorem State.withStatus_a (v : RunStatus) : (s.withStatus v).a = s.a := rfl
@[simp] theorem State.withStatus_x (v : RunStatus) : (s.withStatus v).x = s.x := rfl
@[simp] theorem State.withStatus_y (v : RunStatus) : (s.withStatus v).y = s.y := rfl
@[simp] theorem State.withStatus_sp (v : RunStatus) : (s.withStatus v).sp = s.sp := rfl
@[simp] theorem State.withStatus_pc (v : RunStatus) : (s.withStatus v).pc = s.pc := rfl
@[simp] theorem State.withStatus_flags (v : RunStatus) : (s.withStatus v).flags = s.flags := rfl
@[simp] theorem State.withStatus_mem (v : RunStatus) : (s.withStatus v).mem = s.mem := rfl
@[simp] theorem State.withStatus_icount (v : RunStatus) : (s.withStatus v).icount = s.icount := rfl
@[simp] theorem State.withStatus_status (v : RunStatus) : (s.withStatus v).status = v := rfl
@[simp] theorem State.withStatus_ppuLog (v : RunStatus) : (s.withStatus v).ppuLog = s.ppuLog := rfl
@[simp] theorem State.withStatus_traceLog (v : RunStatus) : (s.withStatus v).traceLog = s.traceLog := rfl
@[simp] theorem State.withStatus_candidates (v : RunStatus) : (s.withStatus v).candidates = s.candidates := rfl

@[simp] theorem State.withPpuLog_a (v : List PpuWrite) : (s.withPpuLog v).a = s.a := rfl
@[simp] theorem State.withPpuLog_x (v : List PpuWrite) : (s.withPpuLog v).x = s.x := rfl
@[simp] theorem State.withPpuLog_y (v : List PpuWrite) : (s.withPpuLog v).y = s.y := rfl
@[simp] theorem State.withPpuLog_sp (v : List PpuWrite) : (s.withPpuLog v).sp = s.sp := rfl
@[simp] theorem State.withPpuLog_pc (v : List PpuWrite) : (s.withPpuLog v).pc = s.pc := rfl
@[simp] theorem State.withPpuLog_flags (v : List PpuWrite) : (s.withPpuLog v).flags = s.flags := rfl
@[simp] theorem State.withPpuLog_mem (v : List PpuWrite) : (s.withPpuLog v).mem = s.mem := rfl
@[simp] theorem State.withPpuLog_icount (v : List PpuWrite) : (s.withPpuLog v).icount = s.icount := rfl
@[simp] theorem State.withPpuLog_status (v : List PpuWrite) : (s.withPpuLog v).status = s.status := rfl
@[simp] theorem State.withPpuLog_ppuLog (v : List PpuWrite) : (s.withPpuLog v).ppuLog = v := rfl
@[simp] theorem State.withPpuLog_traceLog (v : List PpuWrite) : (s.withPpuLog v).traceLog = s.traceLog := rfl
@[simp] theorem State.withPpuLog_candidates (v : List PpuWrite) : (s.withPpuLog v).candidates = s.candidates := rfl

@[simp] theorem State.withTraceLog_a (v : List TraceRecord) : (s.withTraceLog v).a = s.a := rfl
@[simp] theorem State.withTraceLog_x (v : List TraceRecord) : (s.withTraceLog v).x = s.x := rfl
@[simp] theorem State.withTraceLog_y (v : List TraceRecord) : (s.withTraceLog v).y = s.y := rfl
@[simp] theorem State.withTraceLog_sp (v : List TraceRecord) : (s.withTraceLog v).sp = s.sp := rfl
@[simp] theorem State.withTraceLog_pc (v : List TraceRecord) : (s.withTraceLog v).pc = s.pc := rfl
@[simp] theorem State.withTraceLog_flags (v : List TraceRecord) : (s.withTraceLog v).flags = s.flags := rfl
@[simp] theorem State.withTraceLog_mem (v : List TraceRecord) : (s.withTraceLog v).mem = s.mem := rfl
@[simp] theorem State.withTraceLog_icount (v : List TraceRecord) : (s.withTraceLog v).icount = s.icount := rfl
@[simp] theorem State.withTraceLog_status (v : List TraceRecord) : (s.withTraceLog v).status = s.status := rfl
@[simp] theorem State.withTraceLog_ppuLog (v : List TraceRecord) : (s.withTraceLog v).ppuLog = s.ppuLog := rfl
@[simp] theorem State.withTraceLog_traceLog (v : List TraceRecord) : (s.withTraceLog v).traceLog = v := rfl
@[simp] theorem State.withTraceLog_candidates (v : List TraceRecord) : (s.withTraceLog v).candidates = s.candidates := rfl

@[simp] theorem State.withCandidates_a (v : List Byte) : (s.withCandidates v).a = s.a := rfl
@[simp] theorem State.withCandidates_x (v : List Byte) : (s.withCandidates v).x = s.x := rfl
@[simp] theorem State.withCandidates_y (v : List Byte) : (s.withCandidates v).y = s.y := rfl
@[simp] theorem State.withCandidates_sp (v : List Byte) : (s.withCandidates v).sp = s.sp := rfl
@[simp] theorem State.withCandidates_pc (v : List Byte) : (s.withCandidates v).pc = s.pc := rfl
@[simp] theorem State.withCandidates_flags (v : List Byte) : (s.withCandidates v).flags = s.flags := rfl
@[simp] theorem State.withCandidates_mem (v : List Byte) : (s.withCandidates v).mem = s.mem := rfl
@[simp] theorem State.withCandidates_icount (v : List Byte) : (s.withCandidates v).icount = s.icount := rfl
@[simp] theorem State.withCandidates_status (v : List Byte) : (s.withCandidates v).status = s.status := rfl
@[simp] theorem State.withCandidates_ppuLog (v : List Byte) : (s.withCandidates v).ppuLog = s.ppuLog := rfl
@[simp] theorem State.withCandidates_traceLog (v : List Byte) : (s.withCandidates v).traceLog = s.traceLog := rfl
@[simp] theorem State.withCandidates_candidates (v : List Byte) : (s.withCandidates v).candidates = v := rfl

variable (f : Flags)

@[simp] theorem Flags.withC_n (w : Bool) : (f.withC w).n = f.n := rfl
@[simp] theorem Flags.withC_v (w : Bool) : (f.withC w).v = f.v := rfl
@[simp] theorem Flags.withC_b (w : Bool) : (f.withC w).b = f.b := rfl
@[simp] theorem Flags.withC_d (w : Bool) : (f.withC w).d = f.d := rfl
@[simp] theorem Flags.withC_i (w : Bool) : (f.withC w).i = f.i := rfl
@[simp] theorem Flags.withC_z (w : Bool) : (f.withC w).z = f.z := rfl
@[simp] theorem Flags.withC_c (w : Bool) : (f.withC w).c = w := rfl

@[simp] theorem Flags.withV_n (w : Bool) : (f.withV w).n = f.n := rfl
@[simp] theorem Flags.withV_v (w : Bool) : (f.withV w).v = w := rfl
@[simp] theorem Flags.withV_b (w : Bool) : (f.withV w).b = f.b := rfl
@[simp] theorem Flags.withV_d (w : Bool) : (f.withV w).d = f.d := rfl
@[simp] theorem Flags.withV_i (w : Bool) : (f.withV w).i = f.i := rfl
@[simp] theorem Flags.withV_z (w : Bool) : (f.withV w).z = f.z := rfl
@[simp] theorem Flags.withV_c (w : Bool) : (f.withV w).c = f.c := rfl

@[simp] theorem Flags.withI_n (w : Bool) : (f.withI w).n = f.n := rfl
@[simp] theorem Flags.withI_v (w : Bool) : (f.withI w).v = f.v := rfl
@[simp] theorem Flags.withI_b (w : Bool) : (f.withI w).b = f.b := rfl
@[simp] theorem Flags.withI_d (w : Bool) : (f.withI w).d = f.d := rfl
@[simp] theorem Flags.withI_i (w : Bool) : (f.withI w).i = w := rfl
@[simp] theorem Flags.withI_z (w : Bool) : (f.withI w).z = f.z := rfl
@[simp] theorem Flags.withI_c (w : Bool) : (f.withI w).c = f.c := rfl

@[simp] theorem Flags.withD_n (w : Bool) : (f.withD w).n = f.n := rfl
@[simp] theorem Flags.withD_v (w : Bool) : (f.withD w).v = f.v := rfl
@[simp] theorem Flags.withD_b (w : Bool) : (f.withD w).b = f.b := rfl
@[simp] theorem Flags.withD_d (w : Bool) : (f.withD w).d = w := rfl
@[simp] theorem Flags.withD_i (w : Bool) : (f.withD w).i = f.i := rfl
@[simp] theorem Flags.withD_z (w : Bool) : (f.withD w).z = f.z := rfl
@[simp] theorem Flags.withD_c (w : Bool) : (f.withD w).c = f.c := rfl

@[simp] theorem Flags.setZN_n (v : Byte) : (f.setZN v).n = bit7 v := rfl
@[simp] theorem Flags.setZN_v (v : Byte) : (f.setZN v).v = f.v := rfl
@[simp] theorem Flags.setZN_b (v : Byte) : (f.setZN v).b = f.b := rfl
@[simp] theorem Flags.setZN_d (v : Byte) : (f.setZN v).d = f.d := rfl
@[simp] theorem Flags.setZN_i (v : Byte) : (f.setZN v).i = f.i := rfl
@[simp] theorem Flags.setZN_z (v : Byte) : (f.setZN v).z = (v == 0#8) := rfl
@[simp] theorem Flags.setZN_c (v : Byte) : (f.setZN v).c = f.c := rfl

end Sys2Proof.Machine
end

