-- ==== Sys2Proof/Laws/Ops.lean ====
section
/-! SUPPORT. One lemma for each shared operation that says everything it can do: the bus, the stack, the fetch, the
operands, the trace and the reset. -/

namespace Sys2Proof.Machine

variable (s : State)

/-! ## Reads -/

@[simp] theorem memRead_withA (v : Byte) (b : Word) : memRead (s.withA v) b = memRead s b := rfl
@[simp] theorem memRead_withX (v : Byte) (b : Word) : memRead (s.withX v) b = memRead s b := rfl
@[simp] theorem memRead_withY (v : Byte) (b : Word) : memRead (s.withY v) b = memRead s b := rfl
@[simp] theorem memRead_withSp (v : Byte) (b : Word) : memRead (s.withSp v) b = memRead s b := rfl
@[simp] theorem memRead_withPc (v : Word) (b : Word) : memRead (s.withPc v) b = memRead s b := rfl
@[simp] theorem memRead_withFlags (v : Flags) (b : Word) : memRead (s.withFlags v) b = memRead s b := rfl
@[simp] theorem memRead_withIcount (v : Nat) (b : Word) : memRead (s.withIcount v) b = memRead s b := rfl
@[simp] theorem memRead_withStatus (v : RunStatus) (b : Word) : memRead (s.withStatus v) b = memRead s b := rfl
@[simp] theorem memRead_withPpuLog (v : List PpuWrite) (b : Word) : memRead (s.withPpuLog v) b = memRead s b := rfl
@[simp] theorem memRead_withTraceLog (v : List TraceRecord) (b : Word) : memRead (s.withTraceLog v) b = memRead s b := rfl
@[simp] theorem memRead_withCandidates (v : List Byte) (b : Word) : memRead (s.withCandidates v) b = memRead s b := rfl

/-! ## The bus -/

theorem inPpuWindow_iff (addr : Word) : inPpuWindow addr = true ↔ 0x2000 ≤ addr.toNat ∧ addr.toNat ≤ 0x3FFF := by
  simp [inPpuWindow]

/-- A bus write is a redirect to the PPU or a store, and nothing else (20_memory.md R31). -/
theorem memWrite_cases (addr : Word) (v : Byte) :
    (inPpuWindow addr = true ∧ memWrite s addr v = s.withPpuLog (s.ppuLog ++ [⟨ppuReg addr, v⟩])) ∨
    (inPpuWindow addr = false ∧ memWrite s addr v = s.withMem (Memory.writeByte s.mem addr.toNat v)) := by
  unfold memWrite
  cases h : inPpuWindow addr <;> simp

theorem memWrite_redirect {addr : Word} (v : Byte) (h : inPpuWindow addr = true) :
    memWrite s addr v = s.withPpuLog (s.ppuLog ++ [⟨ppuReg addr, v⟩]) := by simp [memWrite, h]

theorem memWrite_plain {addr : Word} (v : Byte) (h : inPpuWindow addr = false) :
    memWrite s addr v = s.withMem (Memory.writeByte s.mem addr.toNat v) := by simp [memWrite, h]

@[simp] theorem memWrite_a (addr : Word) (v : Byte) : (memWrite s addr v).a = s.a := by
  unfold memWrite; split <;> rfl
@[simp] theorem memWrite_x (addr : Word) (v : Byte) : (memWrite s addr v).x = s.x := by
  unfold memWrite; split <;> rfl
@[simp] theorem memWrite_y (addr : Word) (v : Byte) : (memWrite s addr v).y = s.y := by
  unfold memWrite; split <;> rfl
@[simp] theorem memWrite_sp (addr : Word) (v : Byte) : (memWrite s addr v).sp = s.sp := by
  unfold memWrite; split <;> rfl
@[simp] theorem memWrite_pc (addr : Word) (v : Byte) : (memWrite s addr v).pc = s.pc := by
  unfold memWrite; split <;> rfl
@[simp] theorem memWrite_flags (addr : Word) (v : Byte) : (memWrite s addr v).flags = s.flags := by
  unfold memWrite; split <;> rfl
@[simp] theorem memWrite_icount (addr : Word) (v : Byte) : (memWrite s addr v).icount = s.icount := by
  unfold memWrite; split <;> rfl
@[simp] theorem memWrite_status (addr : Word) (v : Byte) : (memWrite s addr v).status = s.status := by
  unfold memWrite; split <;> rfl
@[simp] theorem memWrite_traceLog (addr : Word) (v : Byte) : (memWrite s addr v).traceLog = s.traceLog := by
  unfold memWrite; split <;> rfl
@[simp] theorem memWrite_candidates (addr : Word) (v : Byte) : (memWrite s addr v).candidates = s.candidates := by
  unfold memWrite; split <;> rfl

theorem stored_withMem {s : State} {addr : Word} (v : Byte) (hw : Memory.wf s.mem = true) :
    StoredOnly s (s.withMem (Memory.writeByte s.mem addr.toNat v)) addr v := by
  refine ⟨Memory.readByte_writeByte_same _ _ hw, fun b hb => Memory.readByte_writeByte_ne _ _ ?_⟩
  exact fun h => hb (BitVec.eq_of_toNat_eq h)

/-- A bus write keeps the canonical form. -/
theorem memWrite_wf {s : State} (addr : Word) (v : Byte) (hw : Memory.wf s.mem = true) :
    Memory.wf (memWrite s addr v).mem = true := by
  rcases memWrite_cases s addr v with ⟨_, h⟩ | ⟨_, h⟩ <;> rw [h]
  · exact hw
  · exact Memory.wf_writeByte v addr.isLt hw

/-- A bus write changes no byte of the PPU window's backing array (20_memory.md R47). -/
theorem memWrite_window (addr b : Word) (v : Byte) (hb : inPpuWindow b = true) :
    memRead (memWrite s addr v) b = memRead s b := by
  rcases memWrite_cases s addr v with ⟨_, h⟩ | ⟨ha, h⟩ <;> rw [h]
  · rfl
  · refine Memory.readByte_writeByte_ne _ _ fun he => ?_
    rw [BitVec.eq_of_toNat_eq he, ha] at hb
    exact absurd hb (by simp)

/-! ## The stack -/

theorem stackAddr_toNat (sp : Byte) : (stackAddr sp).toNat = 0x100 + sp.toNat := by
  have := sp.isLt
  simp only [stackAddr, BitVec.toNat_ofNat]
  omega

theorem stackAddr_inj {p q : Byte} (h : stackAddr p = stackAddr q) : p = q := by
  have := congrArg BitVec.toNat h
  rw [stackAddr_toNat, stackAddr_toNat] at this
  exact BitVec.eq_of_toNat_eq (by omega)

/-- The stack page does not meet the PPU window. -/
theorem stackAddr_plain (sp : Byte) : inPpuWindow (stackAddr sp) = false := by
  have := sp.isLt
  have := stackAddr_toNat sp
  simp only [inPpuWindow, Bool.and_eq_false_iff, decide_eq_false_iff_not]
  omega

/-- A push is one store in the stack page and one decrement of SP (20_memory.md R36). -/
theorem push_eq (v : Byte) :
    push s v = (s.withMem (Memory.writeByte s.mem (stackAddr s.sp).toNat v)).withSp (s.sp - 1#8) := by
  simp [push, memWrite_plain s v (stackAddr_plain s.sp)]

theorem push_stored {s : State} (v : Byte) (hw : Memory.wf s.mem = true) :
    StoredOnly s (push s v) (stackAddr s.sp) v := by
  rw [push_eq]
  exact stored_withMem v hw

theorem push_wf {s : State} (v : Byte) (hw : Memory.wf s.mem = true) : Memory.wf (push s v).mem = true := by
  rw [push_eq]
  exact Memory.wf_writeByte v (stackAddr s.sp).isLt hw

@[simp] theorem push_sp (v : Byte) : (push s v).sp = s.sp - 1#8 := by simp [push_eq]
@[simp] theorem push_a (v : Byte) : (push s v).a = s.a := by simp [push_eq]
@[simp] theorem push_x (v : Byte) : (push s v).x = s.x := by simp [push_eq]
@[simp] theorem push_y (v : Byte) : (push s v).y = s.y := by simp [push_eq]
@[simp] theorem push_pc (v : Byte) : (push s v).pc = s.pc := by simp [push_eq]
@[simp] theorem push_flags (v : Byte) : (push s v).flags = s.flags := by simp [push_eq]
@[simp] theorem push_icount (v : Byte) : (push s v).icount = s.icount := by simp [push_eq]
@[simp] theorem push_status (v : Byte) : (push s v).status = s.status := by simp [push_eq]
@[simp] theorem push_ppuLog (v : Byte) : (push s v).ppuLog = s.ppuLog := by simp [push_eq]
@[simp] theorem push_traceLog (v : Byte) : (push s v).traceLog = s.traceLog := by simp [push_eq]
@[simp] theorem push_candidates (v : Byte) : (push s v).candidates = s.candidates := by simp [push_eq]

/-- A pull reads the stack page at the next SP and increments SP (20_memory.md R37). -/
@[simp] theorem pull_fst : (pull s).1 = memRead s (stackAddr (s.sp + 1#8)) := rfl
@[simp] theorem pull_snd : (pull s).2 = s.withSp (s.sp + 1#8) := rfl

@[simp] theorem pullWord_snd : (pullWord s).2 = s.withSp (s.sp + 1#8 + 1#8) := rfl
@[simp] theorem pullWord_fst : (pullWord s).1 =
    wordOf (memRead s (stackAddr (s.sp + 1#8 + 1#8))) (memRead s (stackAddr (s.sp + 1#8))) := rfl

/-! ## The fetch -/

@[simp] theorem fetchByte_fst : (fetchByte s).1 = memRead s s.pc := rfl
@[simp] theorem fetchByte_snd : (fetchByte s).2 = s.withPc (s.pc + 1#16) := rfl
@[simp] theorem fetchWord_fst : (fetchWord s).1 = wordOf (memRead s (s.pc + 1#16)) (memRead s s.pc) := rfl
@[simp] theorem fetchWord_snd : (fetchWord s).2 = s.withPc (s.pc + 1#16 + 1#16) := rfl

/-! ## Operands -/

theorem zext16_toNat (z : Byte) : (zext16 z).toNat = z.toNat := by
  have := z.isLt
  simp only [zext16, BitVec.toNat_ofNat]
  omega

/-- The zero page does not meet the PPU window. -/
theorem zext16_plain (z : Byte) : inPpuWindow (zext16 z) = false := by
  have := z.isLt
  have := zext16_toNat z
  simp only [inPpuWindow, Bool.and_eq_false_iff, decide_eq_false_iff_not]
  omega

/-- A store is a bus write or a write of A (40_dispatch.md R76). -/
theorem store_cases (p : Place) (v : Byte) :
    (∃ ea, p = .mem ea ∧ store s p v = memWrite s ea v) ∨ (p = .acc ∧ store s p v = s.withA v) := by
  cases p with
  | mem ea => exact .inl ⟨ea, rfl, rfl⟩
  | acc => exact .inr ⟨rfl, rfl⟩

theorem store_wf {s : State} (p : Place) (v : Byte) (hw : Memory.wf s.mem = true) :
    Memory.wf (store s p v).mem = true := by
  cases p with
  | mem ea => exact memWrite_wf ea v hw
  | acc => exact hw

/-! ## The ends of a step, and reset -/

@[simp] theorem tick_a : (tick s).a = s.a := rfl
@[simp] theorem tick_x : (tick s).x = s.x := rfl
@[simp] theorem tick_y : (tick s).y = s.y := rfl
@[simp] theorem tick_sp : (tick s).sp = s.sp := rfl
@[simp] theorem tick_pc : (tick s).pc = s.pc := rfl
@[simp] theorem tick_flags : (tick s).flags = s.flags := rfl
@[simp] theorem tick_icount : (tick s).icount = s.icount + 1 := rfl
@[simp] theorem tick_status : (tick s).status = s.status := rfl
@[simp] theorem tick_ppuLog : (tick s).ppuLog = s.ppuLog := rfl
@[simp] theorem tick_traceLog : (tick s).traceLog = s.traceLog := rfl
@[simp] theorem tick_candidates : (tick s).candidates = s.candidates := rfl
@[simp] theorem tick_mem : (tick s).mem = s.mem := rfl
@[simp] theorem memRead_tick (b : Word) : memRead (tick s) b = memRead s b := rfl

@[simp] theorem appendTrace_a (op : Byte) (pc0 : Word) : (appendTrace op pc0 s).a = s.a := rfl
@[simp] theorem appendTrace_x (op : Byte) (pc0 : Word) : (appendTrace op pc0 s).x = s.x := rfl
@[simp] theorem appendTrace_y (op : Byte) (pc0 : Word) : (appendTrace op pc0 s).y = s.y := rfl
@[simp] theorem appendTrace_sp (op : Byte) (pc0 : Word) : (appendTrace op pc0 s).sp = s.sp := rfl
@[simp] theorem appendTrace_pc (op : Byte) (pc0 : Word) : (appendTrace op pc0 s).pc = s.pc := rfl
@[simp] theorem appendTrace_flags (op : Byte) (pc0 : Word) : (appendTrace op pc0 s).flags = s.flags := rfl
@[simp] theorem appendTrace_icount (op : Byte) (pc0 : Word) : (appendTrace op pc0 s).icount = s.icount := rfl
@[simp] theorem appendTrace_status (op : Byte) (pc0 : Word) : (appendTrace op pc0 s).status = s.status := rfl
@[simp] theorem appendTrace_ppuLog (op : Byte) (pc0 : Word) : (appendTrace op pc0 s).ppuLog = s.ppuLog := rfl
@[simp] theorem appendTrace_traceLog (op : Byte) (pc0 : Word) : (appendTrace op pc0 s).traceLog = s.traceLog ++ [traceRecord op pc0 s] := rfl
@[simp] theorem appendTrace_candidates (op : Byte) (pc0 : Word) : (appendTrace op pc0 s).candidates = s.candidates := rfl
@[simp] theorem appendTrace_mem (op : Byte) (pc0 : Word) : (appendTrace op pc0 s).mem = s.mem := rfl
@[simp] theorem memRead_appendTrace (op : Byte) (pc0 b : Word) : memRead (appendTrace op pc0 s) b = memRead s b := rfl

@[simp] theorem hostReset_a : (hostReset s).a = s.a := rfl
@[simp] theorem hostReset_x : (hostReset s).x = s.x := rfl
@[simp] theorem hostReset_y : (hostReset s).y = s.y := rfl
@[simp] theorem hostReset_sp : (hostReset s).sp = 0xFD#8 := rfl
@[simp] theorem hostReset_pc : (hostReset s).pc = wordOf (memRead s 0xFFFD#16) (memRead s 0xFFFC#16) := rfl
@[simp] theorem hostReset_flags : (hostReset s).flags = Flags.afterReset := rfl
@[simp] theorem hostReset_icount : (hostReset s).icount = s.icount := rfl
@[simp] theorem hostReset_status : (hostReset s).status = .running := rfl
@[simp] theorem hostReset_ppuLog : (hostReset s).ppuLog = s.ppuLog := rfl
@[simp] theorem hostReset_traceLog : (hostReset s).traceLog = s.traceLog := rfl
@[simp] theorem hostReset_candidates : (hostReset s).candidates = s.candidates := rfl
@[simp] theorem hostReset_mem : (hostReset s).mem = s.mem := rfl
@[simp] theorem memRead_hostReset (b : Word) : memRead (hostReset s) b = memRead s b := rfl

theorem storeBytes_wf {m : Memory} (addr : Word) (bs : List Byte) (hw : Memory.wf m = true) :
    Memory.wf (storeBytes m addr bs) = true := by
  induction bs generalizing m addr with
  | nil => exact hw
  | cons b bs ih => exact ih _ (Memory.wf_writeByte b addr.isLt hw)

end Sys2Proof.Machine
end

