-- ==== Sys2Proof/Laws/PerInstr.lean ====
section
/-! SUPPORT. Per-instruction laws of the syntax, one lemma for each constructor. -/

namespace Sys2Proof.Laws

/-- The opcode byte's table row has the instruction's byte, mnemonic, format and tier (30_encoding.md R53). -/
def TableRow.Statement (i : Instr) : Prop :=
  (findRow i.opcode).map (fun r => (r.opcode, r.mnemonic, r.format, r.tier)) =
    some (i.opcode, i.mnemonic, i.format, i.tier)

/-- The encoding has the length that the format fixes (30_encoding.md R51). -/
def OperandLength.Statement (i : Instr) : Prop := (encode i).length = i.format.length

theorem TableRow.brk : TableRow.Statement (.brk) := rfl
theorem TableRow.oraZp (z : Byte) : TableRow.Statement (.oraZp z) := rfl
theorem TableRow.aslZp (z : Byte) : TableRow.Statement (.aslZp z) := rfl
theorem TableRow.php : TableRow.Statement (.php) := rfl
theorem TableRow.oraImm (v : Byte) : TableRow.Statement (.oraImm v) := rfl
theorem TableRow.aslAcc : TableRow.Statement (.aslAcc) := rfl
theorem TableRow.oraAbs (addr : Word) : TableRow.Statement (.oraAbs addr) := rfl
theorem TableRow.bpl (off : Byte) : TableRow.Statement (.bpl off) := rfl
theorem TableRow.clc : TableRow.Statement (.clc) := rfl
theorem TableRow.jsr (addr : Word) : TableRow.Statement (.jsr addr) := rfl
theorem TableRow.andZp (z : Byte) : TableRow.Statement (.andZp z) := rfl
theorem TableRow.rolZp (z : Byte) : TableRow.Statement (.rolZp z) := rfl
theorem TableRow.plp : TableRow.Statement (.plp) := rfl
theorem TableRow.andImm (v : Byte) : TableRow.Statement (.andImm v) := rfl
theorem TableRow.rolAcc : TableRow.Statement (.rolAcc) := rfl
theorem TableRow.andAbs (addr : Word) : TableRow.Statement (.andAbs addr) := rfl
theorem TableRow.sec : TableRow.Statement (.sec) := rfl
theorem TableRow.eorZp (z : Byte) : TableRow.Statement (.eorZp z) := rfl
theorem TableRow.lsrZp (z : Byte) : TableRow.Statement (.lsrZp z) := rfl
theorem TableRow.pha : TableRow.Statement (.pha) := rfl
theorem TableRow.eorImm (v : Byte) : TableRow.Statement (.eorImm v) := rfl
theorem TableRow.lsrAcc : TableRow.Statement (.lsrAcc) := rfl
theorem TableRow.jmp (addr : Word) : TableRow.Statement (.jmp addr) := rfl
theorem TableRow.eorAbs (addr : Word) : TableRow.Statement (.eorAbs addr) := rfl
theorem TableRow.cli : TableRow.Statement (.cli) := rfl
theorem TableRow.rts : TableRow.Statement (.rts) := rfl
theorem TableRow.adcZp (z : Byte) : TableRow.Statement (.adcZp z) := rfl
theorem TableRow.rorZp (z : Byte) : TableRow.Statement (.rorZp z) := rfl
theorem TableRow.pla : TableRow.Statement (.pla) := rfl
theorem TableRow.adcImm (v : Byte) : TableRow.Statement (.adcImm v) := rfl
theorem TableRow.rorAcc : TableRow.Statement (.rorAcc) := rfl
theorem TableRow.adcAbs (addr : Word) : TableRow.Statement (.adcAbs addr) := rfl
theorem TableRow.sei : TableRow.Statement (.sei) := rfl
theorem TableRow.staZp (z : Byte) : TableRow.Statement (.staZp z) := rfl
theorem TableRow.txa : TableRow.Statement (.txa) := rfl
theorem TableRow.staAbs (addr : Word) : TableRow.Statement (.staAbs addr) := rfl
theorem TableRow.tya : TableRow.Statement (.tya) := rfl
theorem TableRow.txs : TableRow.Statement (.txs) := rfl
theorem TableRow.staAbsx (addr : Word) : TableRow.Statement (.staAbsx addr) := rfl
theorem TableRow.ldaZp (z : Byte) : TableRow.Statement (.ldaZp z) := rfl
theorem TableRow.tay : TableRow.Statement (.tay) := rfl
theorem TableRow.ldaImm (v : Byte) : TableRow.Statement (.ldaImm v) := rfl
theorem TableRow.tax : TableRow.Statement (.tax) := rfl
theorem TableRow.ldaAbs (addr : Word) : TableRow.Statement (.ldaAbs addr) := rfl
theorem TableRow.ldaZpx (z : Byte) : TableRow.Statement (.ldaZpx z) := rfl
theorem TableRow.clv : TableRow.Statement (.clv) := rfl
theorem TableRow.cmpZp (z : Byte) : TableRow.Statement (.cmpZp z) := rfl
theorem TableRow.decZp (z : Byte) : TableRow.Statement (.decZp z) := rfl
theorem TableRow.cmpImm (v : Byte) : TableRow.Statement (.cmpImm v) := rfl
theorem TableRow.cmpAbs (addr : Word) : TableRow.Statement (.cmpAbs addr) := rfl
theorem TableRow.bne (off : Byte) : TableRow.Statement (.bne off) := rfl
theorem TableRow.cld : TableRow.Statement (.cld) := rfl
theorem TableRow.sbcZp (z : Byte) : TableRow.Statement (.sbcZp z) := rfl
theorem TableRow.incZp (z : Byte) : TableRow.Statement (.incZp z) := rfl
theorem TableRow.sbcImm (v : Byte) : TableRow.Statement (.sbcImm v) := rfl
theorem TableRow.sbcAbs (addr : Word) : TableRow.Statement (.sbcAbs addr) := rfl
theorem TableRow.beq (off : Byte) : TableRow.Statement (.beq off) := rfl
theorem TableRow.sed : TableRow.Statement (.sed) := rfl

theorem OperandLength.brk : OperandLength.Statement (.brk) := rfl
theorem OperandLength.oraZp (z : Byte) : OperandLength.Statement (.oraZp z) := rfl
theorem OperandLength.aslZp (z : Byte) : OperandLength.Statement (.aslZp z) := rfl
theorem OperandLength.php : OperandLength.Statement (.php) := rfl
theorem OperandLength.oraImm (v : Byte) : OperandLength.Statement (.oraImm v) := rfl
theorem OperandLength.aslAcc : OperandLength.Statement (.aslAcc) := rfl
theorem OperandLength.oraAbs (addr : Word) : OperandLength.Statement (.oraAbs addr) := rfl
theorem OperandLength.bpl (off : Byte) : OperandLength.Statement (.bpl off) := rfl
theorem OperandLength.clc : OperandLength.Statement (.clc) := rfl
theorem OperandLength.jsr (addr : Word) : OperandLength.Statement (.jsr addr) := rfl
theorem OperandLength.andZp (z : Byte) : OperandLength.Statement (.andZp z) := rfl
theorem OperandLength.rolZp (z : Byte) : OperandLength.Statement (.rolZp z) := rfl
theorem OperandLength.plp : OperandLength.Statement (.plp) := rfl
theorem OperandLength.andImm (v : Byte) : OperandLength.Statement (.andImm v) := rfl
theorem OperandLength.rolAcc : OperandLength.Statement (.rolAcc) := rfl
theorem OperandLength.andAbs (addr : Word) : OperandLength.Statement (.andAbs addr) := rfl
theorem OperandLength.sec : OperandLength.Statement (.sec) := rfl
theorem OperandLength.eorZp (z : Byte) : OperandLength.Statement (.eorZp z) := rfl
theorem OperandLength.lsrZp (z : Byte) : OperandLength.Statement (.lsrZp z) := rfl
theorem OperandLength.pha : OperandLength.Statement (.pha) := rfl
theorem OperandLength.eorImm (v : Byte) : OperandLength.Statement (.eorImm v) := rfl
theorem OperandLength.lsrAcc : OperandLength.Statement (.lsrAcc) := rfl
theorem OperandLength.jmp (addr : Word) : OperandLength.Statement (.jmp addr) := rfl
theorem OperandLength.eorAbs (addr : Word) : OperandLength.Statement (.eorAbs addr) := rfl
theorem OperandLength.cli : OperandLength.Statement (.cli) := rfl
theorem OperandLength.rts : OperandLength.Statement (.rts) := rfl
theorem OperandLength.adcZp (z : Byte) : OperandLength.Statement (.adcZp z) := rfl
theorem OperandLength.rorZp (z : Byte) : OperandLength.Statement (.rorZp z) := rfl
theorem OperandLength.pla : OperandLength.Statement (.pla) := rfl
theorem OperandLength.adcImm (v : Byte) : OperandLength.Statement (.adcImm v) := rfl
theorem OperandLength.rorAcc : OperandLength.Statement (.rorAcc) := rfl
theorem OperandLength.adcAbs (addr : Word) : OperandLength.Statement (.adcAbs addr) := rfl
theorem OperandLength.sei : OperandLength.Statement (.sei) := rfl
theorem OperandLength.staZp (z : Byte) : OperandLength.Statement (.staZp z) := rfl
theorem OperandLength.txa : OperandLength.Statement (.txa) := rfl
theorem OperandLength.staAbs (addr : Word) : OperandLength.Statement (.staAbs addr) := rfl
theorem OperandLength.tya : OperandLength.Statement (.tya) := rfl
theorem OperandLength.txs : OperandLength.Statement (.txs) := rfl
theorem OperandLength.staAbsx (addr : Word) : OperandLength.Statement (.staAbsx addr) := rfl
theorem OperandLength.ldaZp (z : Byte) : OperandLength.Statement (.ldaZp z) := rfl
theorem OperandLength.tay : OperandLength.Statement (.tay) := rfl
theorem OperandLength.ldaImm (v : Byte) : OperandLength.Statement (.ldaImm v) := rfl
theorem OperandLength.tax : OperandLength.Statement (.tax) := rfl
theorem OperandLength.ldaAbs (addr : Word) : OperandLength.Statement (.ldaAbs addr) := rfl
theorem OperandLength.ldaZpx (z : Byte) : OperandLength.Statement (.ldaZpx z) := rfl
theorem OperandLength.clv : OperandLength.Statement (.clv) := rfl
theorem OperandLength.cmpZp (z : Byte) : OperandLength.Statement (.cmpZp z) := rfl
theorem OperandLength.decZp (z : Byte) : OperandLength.Statement (.decZp z) := rfl
theorem OperandLength.cmpImm (v : Byte) : OperandLength.Statement (.cmpImm v) := rfl
theorem OperandLength.cmpAbs (addr : Word) : OperandLength.Statement (.cmpAbs addr) := rfl
theorem OperandLength.bne (off : Byte) : OperandLength.Statement (.bne off) := rfl
theorem OperandLength.cld : OperandLength.Statement (.cld) := rfl
theorem OperandLength.sbcZp (z : Byte) : OperandLength.Statement (.sbcZp z) := rfl
theorem OperandLength.incZp (z : Byte) : OperandLength.Statement (.incZp z) := rfl
theorem OperandLength.sbcImm (v : Byte) : OperandLength.Statement (.sbcImm v) := rfl
theorem OperandLength.sbcAbs (addr : Word) : OperandLength.Statement (.sbcAbs addr) := rfl
theorem OperandLength.beq (off : Byte) : OperandLength.Statement (.beq off) := rfl
theorem OperandLength.sed : OperandLength.Statement (.sed) := rfl

end Sys2Proof.Laws
end

