-- ==== Sys2Proof/Laws/Step.lean ====
section
/-! SUPPORT. What a meaning and a step can do, said once. -/

namespace Sys2Proof.Machine

/-- Every meaning answers a next state: once an opcode is decoded nothing can fail (60_exceptions.md R122). -/
theorem exec_next (i : Instr) (s : State) : ∃ t, exec i s = .next t := by
  cases i <;> exact ⟨_, rfl⟩

/-- A step of a running block, by the table lookup: it stops on a byte with no row, or runs the row's instruction. -/
theorem step_running {s : State} (h : s.status = .running) :
    step s = match admittedRow s.candidates (memRead s s.pc) with
      | none => .next (appendTrace (memRead s s.pc) s.pc
          (raiseIllegalOpcode ((tick s).withPc (s.pc + 1#16)) (memRead s s.pc) s.pc))
      | some r => endStep (memRead s s.pc) s.pc
          (exec (fetchOperands ((tick s).withPc (s.pc + 1#16)) r.shape).1
            (fetchOperands ((tick s).withPc (s.pc + 1#16)) r.shape).2) := by
  simp only [step, h, fetch, fetchByte_fst, fetchByte_snd, tick_candidates, tick_pc, memRead_tick]
  cases admittedRow s.candidates (memRead s s.pc) <;> rfl

/-- What a step that answers a next state did: stop on a byte with no row (R121), or run one instruction (R66). -/
theorem step_cases {s t : State} (h : step s = .next t) : s.status = .running ∧
    ((admittedRow s.candidates (memRead s s.pc) = none ∧
      t = appendTrace (memRead s s.pc) s.pc
        (raiseIllegalOpcode ((tick s).withPc (s.pc + 1#16)) (memRead s s.pc) s.pc)) ∨
    (∃ r u, admittedRow s.candidates (memRead s s.pc) = some r ∧
      exec (fetchOperands ((tick s).withPc (s.pc + 1#16)) r.shape).1
        (fetchOperands ((tick s).withPc (s.pc + 1#16)) r.shape).2 = .next u ∧
      t = appendTrace (memRead s s.pc) s.pc u)) := by
  have hs : s.status = .running := by
    cases hst : s.status with
    | running => rfl
    | halted => simp [step, hst] at h
    | faulted op pc => simp [step, hst] at h
  refine ⟨hs, ?_⟩
  rw [step_running hs] at h
  cases hr : admittedRow s.candidates (memRead s s.pc) with
  | none =>
    rw [hr] at h
    exact .inl ⟨rfl, (Host.Outcome.next.inj h).symm⟩
  | some r =>
    rw [hr] at h
    obtain ⟨u, hu⟩ := exec_next (fetchOperands ((tick s).withPc (s.pc + 1#16)) r.shape).1
      (fetchOperands ((tick s).withPc (s.pc + 1#16)) r.shape).2
    refine .inr ⟨r, u, rfl, hu, ?_⟩
    simp only [hu, endStep] at h
    exact (Host.Outcome.next.inj h).symm

/-- The operand fetch moves PC and nothing else. -/
theorem fetchOperands_snd (s : State) (sh : Shape) : ∃ pc, (fetchOperands s sh).2 = s.withPc pc := by
  cases sh with
  | bare i => exact ⟨s.pc, rfl⟩
  | byte mk => exact ⟨_, rfl⟩
  | word mk => exact ⟨_, rfl⟩

end Sys2Proof.Machine
end

