-- ==== Sys2Proof/Tests/Slice0.lean ====
section
/-! SUPPORT. Tests. Expected results come from the spec: the encodings of 30_encoding.md section 3, the examples of the
rules, and the vectors of 95_test_vectors.md section 2. -/

namespace Sys2Proof.Tests

open Sys2Proof Sys2Proof.Machine

/-! ## Well-formedness refuses what is ill-formed -/

/-- AND immediate is a candidate, and the default admits none (30_encoding.md R53). -/
theorem test_wf_refuses_unadmitted_candidate : Instr.wf [] (.andImm 0x0F#8) = false := by decide
theorem test_wf_accepts_admitted_candidate : Instr.wf [0x29#8] (.andImm 0x0F#8) = true := by decide
/-- 0xEA has no row, so it can be no candidate; a repeat and a wrong order are not the canonical subset. -/
theorem test_candidatesWf_refuses : candidatesWf [0xEA#8] = false ∧ candidatesWf [0xA9#8] = false ∧
    candidatesWf [0x29#8, 0x29#8] = false ∧ candidatesWf [0x29#8, 0x05#8] = false := by decide
theorem test_candidatesWf_accepts : candidatesWf [] = true ∧ candidatesWf [0x05#8, 0x29#8] = true := by decide
/-- An unsorted image, a repeated address, a listed zero, an address past the space. -/
theorem test_memory_wf_refuses : Memory.wf [(2, 1#8), (1, 1#8)] = false ∧ Memory.wf [(2, 1#8), (2, 1#8)] = false ∧
    Memory.wf [(2, 0#8)] = false ∧ Memory.wf [(65536, 1#8)] = false := by decide
theorem test_launch_wf : Launch.wf Launch.default = true ∧
    Launch.wf { Launch.default with candidateOpcodes := [0xFF#8] } = false ∧
    Launch.wf { Launch.default with mem0 := [(3, 0#8)] } = false := by decide

/-! ## Every row's word decodes to its instruction (30_encoding.md section 3) -/

theorem test_decode_load_store :
    decode candidateBytes [0x85#8, 0x8A#8] = .ok (.staZp 0x8A#8) [] ∧
    decode candidateBytes [0x8D#8, 0x34#8, 0x12#8] = .ok (.staAbs 0x1234#16) [] ∧
    decode candidateBytes [0x9D#8, 0x34#8, 0x12#8] = .ok (.staAbsx 0x1234#16) [] ∧
    decode candidateBytes [0xA5#8, 0x8A#8] = .ok (.ldaZp 0x8A#8) [] ∧
    decode candidateBytes [0xA9#8, 0x8A#8] = .ok (.ldaImm 0x8A#8) [] ∧
    decode candidateBytes [0xAD#8, 0x34#8, 0x12#8] = .ok (.ldaAbs 0x1234#16) [] ∧
    decode candidateBytes [0xB5#8, 0x8A#8] = .ok (.ldaZpx 0x8A#8) [] := by
  decide

theorem test_decode_arithmetic :
    decode candidateBytes [0x65#8, 0x8A#8] = .ok (.adcZp 0x8A#8) [] ∧
    decode candidateBytes [0x69#8, 0x8A#8] = .ok (.adcImm 0x8A#8) [] ∧
    decode candidateBytes [0x6D#8, 0x34#8, 0x12#8] = .ok (.adcAbs 0x1234#16) [] ∧
    decode candidateBytes [0xE5#8, 0x8A#8] = .ok (.sbcZp 0x8A#8) [] ∧
    decode candidateBytes [0xE9#8, 0x8A#8] = .ok (.sbcImm 0x8A#8) [] ∧
    decode candidateBytes [0xED#8, 0x34#8, 0x12#8] = .ok (.sbcAbs 0x1234#16) [] := by
  decide

theorem test_decode_logic_compare :
    decode candidateBytes [0x05#8, 0x8A#8] = .ok (.oraZp 0x8A#8) [] ∧
    decode candidateBytes [0x09#8, 0x8A#8] = .ok (.oraImm 0x8A#8) [] ∧
    decode candidateBytes [0x0D#8, 0x34#8, 0x12#8] = .ok (.oraAbs 0x1234#16) [] ∧
    decode candidateBytes [0x25#8, 0x8A#8] = .ok (.andZp 0x8A#8) [] ∧
    decode candidateBytes [0x29#8, 0x8A#8] = .ok (.andImm 0x8A#8) [] ∧
    decode candidateBytes [0x2D#8, 0x34#8, 0x12#8] = .ok (.andAbs 0x1234#16) [] ∧
    decode candidateBytes [0x45#8, 0x8A#8] = .ok (.eorZp 0x8A#8) [] ∧
    decode candidateBytes [0x49#8, 0x8A#8] = .ok (.eorImm 0x8A#8) [] ∧
    decode candidateBytes [0x4D#8, 0x34#8, 0x12#8] = .ok (.eorAbs 0x1234#16) [] ∧
    decode candidateBytes [0xC5#8, 0x8A#8] = .ok (.cmpZp 0x8A#8) [] ∧
    decode candidateBytes [0xC9#8, 0x8A#8] = .ok (.cmpImm 0x8A#8) [] ∧
    decode candidateBytes [0xCD#8, 0x34#8, 0x12#8] = .ok (.cmpAbs 0x1234#16) [] := by
  decide

theorem test_decode_branch_control :
    decode candidateBytes [0x00#8] = .ok .brk [] ∧
    decode candidateBytes [0x10#8, 0x8A#8] = .ok (.bpl 0x8A#8) [] ∧
    decode candidateBytes [0x20#8, 0x34#8, 0x12#8] = .ok (.jsr 0x1234#16) [] ∧
    decode candidateBytes [0x4C#8, 0x34#8, 0x12#8] = .ok (.jmp 0x1234#16) [] ∧
    decode candidateBytes [0x60#8] = .ok .rts [] ∧
    decode candidateBytes [0xD0#8, 0x8A#8] = .ok (.bne 0x8A#8) [] ∧
    decode candidateBytes [0xF0#8, 0x8A#8] = .ok (.beq 0x8A#8) [] := by
  decide

theorem test_decode_stack_transfer :
    decode candidateBytes [0x08#8] = .ok .php [] ∧
    decode candidateBytes [0x28#8] = .ok .plp [] ∧
    decode candidateBytes [0x48#8] = .ok .pha [] ∧
    decode candidateBytes [0x68#8] = .ok .pla [] ∧
    decode candidateBytes [0x8A#8] = .ok .txa [] ∧
    decode candidateBytes [0x98#8] = .ok .tya [] ∧
    decode candidateBytes [0x9A#8] = .ok .txs [] ∧
    decode candidateBytes [0xA8#8] = .ok .tay [] ∧
    decode candidateBytes [0xAA#8] = .ok .tax [] := by
  decide

theorem test_decode_shift_incdec :
    decode candidateBytes [0x06#8, 0x8A#8] = .ok (.aslZp 0x8A#8) [] ∧
    decode candidateBytes [0x0A#8] = .ok .aslAcc [] ∧
    decode candidateBytes [0x26#8, 0x8A#8] = .ok (.rolZp 0x8A#8) [] ∧
    decode candidateBytes [0x2A#8] = .ok .rolAcc [] ∧
    decode candidateBytes [0x46#8, 0x8A#8] = .ok (.lsrZp 0x8A#8) [] ∧
    decode candidateBytes [0x4A#8] = .ok .lsrAcc [] ∧
    decode candidateBytes [0x66#8, 0x8A#8] = .ok (.rorZp 0x8A#8) [] ∧
    decode candidateBytes [0x6A#8] = .ok .rorAcc [] ∧
    decode candidateBytes [0xC6#8, 0x8A#8] = .ok (.decZp 0x8A#8) [] ∧
    decode candidateBytes [0xE6#8, 0x8A#8] = .ok (.incZp 0x8A#8) [] := by
  decide

theorem test_decode_flag_ops :
    decode candidateBytes [0x18#8] = .ok .clc [] ∧
    decode candidateBytes [0x38#8] = .ok .sec [] ∧
    decode candidateBytes [0x58#8] = .ok .cli [] ∧
    decode candidateBytes [0x78#8] = .ok .sei [] ∧
    decode candidateBytes [0xB8#8] = .ok .clv [] ∧
    decode candidateBytes [0xD8#8] = .ok .cld [] ∧
    decode candidateBytes [0xF8#8] = .ok .sed [] := by
  decide

theorem test_decode_refuses : decode candidateBytes [] = .error .noBytes ∧
    decode candidateBytes [0xFF#8] = .error (.unmapped 0xFF#8) ∧
    decode candidateBytes [0xEA#8] = .error (.unmapped 0xEA#8) ∧
    decode [] [0x29#8, 0x0F#8] = .error (.unmapped 0x29#8) ∧
    decode [] [0xA9#8] = .error (.truncated 0xA9#8) ∧
    decode [] [0x20#8, 0x00#8] = .error (.truncated 0x20#8) := by decide

/-- The table has 39 attested and 19 candidate rows, no two with one byte (90_conflicts.md C7). -/
theorem test_table_counts : opcodeTable.length = 58 ∧ candidateBytes.length = 19 ∧
    (opcodeTable.map (fun r => r.opcode)).Pairwise (fun a b => a ≠ b) := by decide
theorem test_candidate_bytes : candidateBytes = [0x05#8, 0x09#8, 0x0D#8, 0x25#8, 0x29#8, 0x2D#8, 0x45#8, 0x49#8, 0x4D#8,
    0x65#8, 0x6D#8, 0x85#8, 0xA5#8, 0xAD#8, 0xC5#8, 0xC9#8, 0xCD#8, 0xE5#8, 0xED#8] := by decide
theorem test_decodeTableWord : decodeTableWord 8 0x8D = some (.staAbs 0x0000#16) ∧
    decodeTableWord 24 0x02008D = some (.staAbs 0x0200#16) ∧ decodeTableWord 8 0x29 = some (.andImm 0x00#8) ∧
    decodeTableWord 8 0xFF = none := by decide

/-! ## One step on a small state (95_test_vectors.md section 2) -/

/-- The start state of 95_test_vectors.md: the reset state with PC at `pc` and the bytes of the instruction there. -/
def at_ (pc : Word) (bytes : List Byte) : State :=
  (State.reset.withMem (storeBytes [] pc bytes)).withPc pc

/-- The start state at 0x8000. -/
def start (bytes : List Byte) : State := at_ 0x8000#16 bytes

/-- `s` with one more byte in memory. -/
def poke (s : State) (addr : Word) (v : Byte) : State := s.withMem (Memory.writeByte s.mem addr.toNat v)

/-- What is claimed of a next state; false of a stop. -/
def after (r : Result) (p : State → Bool) : Bool :=
  match r with
  | .next t => p t
  | .fault _ => false
  | .refused _ => false

theorem test_lda_imm_zero_sets_z :
    after (step (start [0xA9#8, 0x00#8]))
      (fun t => t.a == 0x00#8 && pack t.flags == 0x26#8 && t.pc == 0x8002#16) = true := by decide
theorem test_lda_imm_negative_sets_n :
    after (step (start [0xA9#8, 0x80#8]))
      (fun t => t.a == 0x80#8 && pack t.flags == 0xA4#8 && t.icount == 1) = true := by decide
theorem test_lda_zpx_wraps_in_zero_page :
    after (step (poke ((start [0xB5#8, 0x80#8]).withX 0xFF#8) 0x007F#16 0x55#8))
      (fun t => t.a == 0x55#8 && t.pc == 0x8002#16) = true := by decide
theorem test_sta_abs_window_end_goes_to_ppu :
    after (step ((start [0x8D#8, 0xFF#8, 0x3F#8]).withA 0x11#8))
      (fun t => t.ppuLog == [⟨0x2007#16, 0x11#8⟩] && memRead t 0x3FFF#16 == 0x00#8 && t.pc == 0x8003#16) = true := by decide
theorem test_sta_abs_after_window_stores :
    after (step ((start [0x8D#8, 0x00#8, 0x40#8]).withA 0x1E#8))
      (fun t => memRead t 0x4000#16 == 0x1E#8 && t.ppuLog == [] && pack t.flags == 0x24#8) = true := by decide
theorem test_sta_absx_wraps_at_the_top :
    after (step (((start [0x9D#8, 0xFF#8, 0xFF#8]).withA 0x13#8).withX 0x01#8))
      (fun t => memRead t 0x0000#16 == 0x13#8 && t.ppuLog == []) = true := by decide
theorem test_sta_absx_into_window_start :
    after (step (((start [0x9D#8, 0xFF#8, 0x1F#8]).withA 0x14#8).withX 0x01#8))
      (fun t => t.ppuLog == [⟨0x2000#16, 0x14#8⟩] && memRead t 0x2000#16 == 0x00#8) = true := by decide
theorem test_adc_signed_overflow :
    after (step ((start [0x69#8, 0x01#8]).withA 0x7F#8))
      (fun t => t.a == 0x80#8 && pack t.flags == 0xE4#8) = true := by decide
theorem test_adc_carry_and_overflow :
    after (step ((start [0x69#8, 0x80#8]).withA 0x80#8))
      (fun t => t.a == 0x00#8 && pack t.flags == 0x67#8) = true := by decide
theorem test_sbc_borrow :
    after (step (((start [0xE9#8, 0x01#8]).withA 0x00#8).withFlags (unpack 0x25#8)))
      (fun t => t.a == 0xFF#8 && pack t.flags == 0xA4#8) = true := by decide
theorem test_sbc_signed_overflow :
    after (step (((start [0xE9#8, 0x01#8]).withA 0x80#8).withFlags (unpack 0x25#8)))
      (fun t => t.a == 0x7F#8 && pack t.flags == 0x65#8) = true := by decide
theorem test_and_disjoint_is_zero :
    after (step (((start [0x29#8, 0x0F#8]).withA 0xF0#8).withCandidates [0x29#8]))
      (fun t => t.a == 0x00#8 && pack t.flags == 0x26#8) = true := by decide
theorem test_and_unadmitted_faults :
    after (step ((start [0x29#8, 0x0F#8]).withA 0xF0#8))
      (fun t => t.status == .faulted 0x29#8 0x8000#16 && t.pc == 0x8001#16 && t.icount == 1 && t.a == 0xF0#8) = true := by decide
theorem test_ora_joins_bits :
    after (step (((start [0x09#8, 0x01#8]).withA 0x80#8).withCandidates [0x09#8]))
      (fun t => t.a == 0x81#8 && pack t.flags == 0xA4#8) = true := by decide
theorem test_eor_of_equal_is_zero :
    after (step (((start [0x49#8, 0xFF#8]).withA 0xFF#8).withCandidates [0x49#8]))
      (fun t => t.a == 0x00#8 && pack t.flags == 0x26#8) = true := by decide
theorem test_cmp_smaller_clears_c_without_sign_error :
    after (step (((start [0xC9#8, 0xFF#8]).withA 0x01#8).withCandidates [0xC9#8]))
      (fun t => t.a == 0x01#8 && pack t.flags == 0x24#8) = true := by decide
theorem test_cmp_below_sets_n :
    after (step (((start [0xC9#8, 0x20#8]).withA 0x10#8).withCandidates [0xC9#8]))
      (fun t => t.a == 0x10#8 && pack t.flags == 0xA4#8) = true := by decide
theorem test_bne_self_loop :
    after (step (start [0xD0#8, 0xFE#8]))
      (fun t => t.pc == 0x8000#16) = true := by decide
theorem test_bne_not_taken_moves_two :
    after (step ((start [0xD0#8, 0x05#8]).withFlags (unpack 0x26#8)))
      (fun t => t.pc == 0x8002#16) = true := by decide
theorem test_beq_backward :
    after (step ((start [0xF0#8, 0x80#8]).withFlags (unpack 0x26#8)))
      (fun t => t.pc == 0x7F82#16) = true := by decide
theorem test_bpl_wraps_forward :
    after (step (at_ 0xFFF0#16 [0x10#8, 0x7F#8]))
      (fun t => t.pc == 0x0071#16) = true := by decide
theorem test_bpl_wraps_backward :
    after (step (at_ 0x0000#16 [0x10#8, 0x80#8]))
      (fun t => t.pc == 0xFF82#16) = true := by decide
theorem test_jsr_pushes_p_plus_2 :
    after (step (start [0x20#8, 0x00#8, 0x90#8]))
      (fun t => memRead t 0x01FD#16 == 0x80#8 && memRead t 0x01FC#16 == 0x02#8 && t.sp == 0xFB#8 && t.pc == 0x9000#16) = true := by decide
theorem test_jsr_wraps_sp :
    after (step ((start [0x20#8, 0x00#8, 0x90#8]).withSp 0x00#8))
      (fun t => memRead t 0x0100#16 == 0x80#8 && memRead t 0x01FF#16 == 0x02#8 && t.sp == 0xFE#8) = true := by decide
theorem test_jsr_at_the_top_pushes_ffff :
    after (step (at_ 0xFFFD#16 [0x20#8, 0x00#8, 0x90#8]))
      (fun t => memRead t 0x01FD#16 == 0xFF#8 && memRead t 0x01FC#16 == 0xFF#8 && t.pc == 0x9000#16) = true := by decide
theorem test_rts_wraps_sp :
    after (step (poke (poke ((start [0x60#8]).withSp 0xFE#8) 0x01FF#16 0x33#8) 0x0100#16 0x12#8))
      (fun t => t.pc == 0x1234#16 && t.sp == 0x00#8) = true := by decide
theorem test_rts_wraps_pc :
    after (step (poke (poke ((start [0x60#8]).withSp 0xFB#8) 0x01FC#16 0xFF#8) 0x01FD#16 0xFF#8))
      (fun t => t.pc == 0x0000#16 && t.sp == 0xFD#8) = true := by decide
theorem test_jmp_split_across_the_wrap :
    after (step (at_ 0xFFFE#16 [0x4C#8, 0x34#8, 0x12#8]))
      (fun t => t.pc == 0x1234#16) = true := by decide
theorem test_brk_halts :
    after (step (start [0x00#8]))
      (fun t => t.status == .halted && t.pc == 0x8001#16 && t.icount == 1 && t.sp == 0xFD#8 && pack t.flags == 0x24#8) = true := by decide
theorem test_illegal_at_the_top :
    after (step (at_ 0xFFFF#16 [0xFF#8]))
      (fun t => t.status == .faulted 0xFF#8 0xFFFF#16 && t.pc == 0x0000#16 && t.icount == 1) = true := by decide
theorem test_pha_stores_and_decrements :
    after (step ((start [0x48#8]).withA 0x42#8))
      (fun t => memRead t 0x01FD#16 == 0x42#8 && t.sp == 0xFC#8) = true := by decide
theorem test_pha_wraps_sp :
    after (step (((start [0x48#8]).withA 0x77#8).withSp 0x00#8))
      (fun t => memRead t 0x0100#16 == 0x77#8 && t.sp == 0xFF#8) = true := by decide
theorem test_pla_wraps_sp :
    after (step (poke ((start [0x68#8]).withSp 0xFF#8) 0x0100#16 0x80#8))
      (fun t => t.a == 0x80#8 && t.sp == 0x00#8 && pack t.flags == 0xA4#8) = true := by decide
theorem test_php_forces_bits_5_and_4 :
    after (step (start [0x08#8]))
      (fun t => memRead t 0x01FD#16 == 0x34#8 && t.sp == 0xFC#8 && pack t.flags == 0x24#8) = true := by decide
theorem test_plp_stores_b :
    after (step (poke (start [0x28#8]) 0x01FE#16 0xFF#8))
      (fun t => pack t.flags == 0xFF#8 && t.sp == 0xFE#8) = true := by decide
theorem test_plp_clears_all :
    after (step (start [0x28#8]))
      (fun t => pack t.flags == 0x20#8 && t.sp == 0xFE#8) = true := by decide
theorem test_txa :
    after (step ((start [0x8A#8]).withX 0x90#8))
      (fun t => t.a == 0x90#8 && pack t.flags == 0xA4#8) = true := by decide
theorem test_tya :
    after (step ((start [0x98#8]).withA 0x05#8))
      (fun t => t.a == 0x00#8 && pack t.flags == 0x26#8) = true := by decide
theorem test_tax :
    after (step ((start [0xAA#8]).withA 0x02#8))
      (fun t => t.x == 0x02#8 && pack t.flags == 0x24#8) = true := by decide
theorem test_tay :
    after (step ((start [0xA8#8]).withA 0xFF#8))
      (fun t => t.y == 0xFF#8 && pack t.flags == 0xA4#8) = true := by decide
theorem test_txs_changes_no_flag :
    after (step ((start [0x9A#8]).withX 0x80#8))
      (fun t => t.sp == 0x80#8 && pack t.flags == 0x24#8) = true := by decide
theorem test_asl_acc :
    after (step ((start [0x0A#8]).withA 0x81#8))
      (fun t => t.a == 0x02#8 && pack t.flags == 0x25#8) = true := by decide
theorem test_asl_zp :
    after (step (poke (start [0x06#8, 0x20#8]) 0x0020#16 0x81#8))
      (fun t => memRead t 0x0020#16 == 0x02#8 && pack t.flags == 0x25#8) = true := by decide
theorem test_lsr_zp :
    after (step (poke (start [0x46#8, 0x10#8]) 0x0010#16 0x03#8))
      (fun t => memRead t 0x0010#16 == 0x01#8 && pack t.flags == 0x25#8) = true := by decide
theorem test_lsr_acc_to_zero :
    after (step ((start [0x4A#8]).withA 0x01#8))
      (fun t => t.a == 0x00#8 && pack t.flags == 0x27#8) = true := by decide
theorem test_rol_acc_takes_the_carry :
    after (step (((start [0x2A#8]).withA 0x01#8).withFlags (unpack 0x25#8)))
      (fun t => t.a == 0x03#8 && pack t.flags == 0x24#8) = true := by decide
theorem test_rol_zp :
    after (step ((poke (start [0x26#8, 0x10#8]) 0x0010#16 0xFF#8).withFlags (unpack 0x25#8)))
      (fun t => memRead t 0x0010#16 == 0xFF#8 && pack t.flags == 0xA5#8) = true := by decide
theorem test_ror_acc_takes_the_carry :
    after (step (((start [0x6A#8]).withA 0x00#8).withFlags (unpack 0x25#8)))
      (fun t => t.a == 0x80#8 && pack t.flags == 0xA4#8) = true := by decide
theorem test_ror_zp :
    after (step ((poke (start [0x66#8, 0x20#8]) 0x0020#16 0x02#8).withFlags (unpack 0x25#8)))
      (fun t => memRead t 0x0020#16 == 0x81#8 && pack t.flags == 0xA4#8) = true := by decide
theorem test_inc_wraps_and_keeps_c :
    after (step ((poke (start [0xE6#8, 0x10#8]) 0x0010#16 0xFF#8).withFlags (unpack 0x25#8)))
      (fun t => memRead t 0x0010#16 == 0x00#8 && pack t.flags == 0x27#8) = true := by decide
theorem test_dec_wraps :
    after (step (start [0xC6#8, 0x10#8]))
      (fun t => memRead t 0x0010#16 == 0xFF#8 && pack t.flags == 0xA4#8) = true := by decide
theorem test_sec :
    after (step (start [0x38#8]))
      (fun t => pack t.flags == 0x25#8) = true := by decide
theorem test_clc :
    after (step ((start [0x18#8]).withFlags (unpack 0x25#8)))
      (fun t => pack t.flags == 0x24#8) = true := by decide
theorem test_sei :
    after (step ((start [0x78#8]).withFlags (unpack 0x20#8)))
      (fun t => pack t.flags == 0x24#8) = true := by decide
theorem test_cli :
    after (step (start [0x58#8]))
      (fun t => pack t.flags == 0x20#8) = true := by decide
theorem test_sed :
    after (step (start [0xF8#8]))
      (fun t => pack t.flags == 0x2C#8) = true := by decide
theorem test_cld :
    after (step ((start [0xD8#8]).withFlags (unpack 0x2C#8)))
      (fun t => pack t.flags == 0x24#8) = true := by decide
theorem test_clv :
    after (step ((start [0xB8#8]).withFlags (unpack 0xE4#8)))
      (fun t => pack t.flags == 0xA4#8) = true := by decide
theorem test_adc_ignores_decimal :
    after (step (((start [0x69#8, 0x01#8]).withA 0x09#8).withFlags (unpack 0x2C#8)))
      (fun t => t.a == 0x0A#8 && pack t.flags == 0x2C#8) = true := by decide

/-- The trace record of a step holds the state after it (10_state.md R24). -/
theorem test_trace_record : after (step (start [0xA9#8, 0x80#8])) (fun t => t.traceLog ==
    [⟨0xA9#8, 0x8000#16, 0x80#8, 0x00#8, 0x00#8, 0xFD#8, 0x8002#16, 0xA4#8, 1⟩]) = true := by decide

/-! ## Reset and launch (95_test_vectors.md 2.10) -/

theorem test_reset_loads_the_vector : (hostReset (poke State.reset 0xFFFD#16 0x80#8)).pc = 0x8000#16 := by decide
theorem test_reset_state : State.reset.sp = 0xFD#8 ∧ pack State.reset.flags = 0x24#8 ∧ State.reset.pc = 0x0000#16 ∧
    State.reset.status = .running ∧ State.reset.candidates = [] := by decide
theorem test_loader_sets_the_vector : (State.launch (loadVector Launch.default 0x8000#16)).pc = 0x8000#16 := by decide
theorem test_halted_block_does_not_step : step (State.reset.withStatus .halted) = .fault .haltedByBrk := rfl
theorem test_faulted_block_does_not_step :
    step (State.reset.withStatus (.faulted 0xFF#8 0x8002#16)) = .fault (.illegalOpcode 0xFF#8 0x8002#16) := rfl
/-- A candidate's table word runs as the next step of a block that admits nothing. -/
theorem test_withFetchWord_runs_a_candidate : after (step (State.reset.withFetchWord 16 0x0F29)) (fun t =>
    t.status == .running && t.pc == 0x0002#16 && t.candidates == [0x29#8] && pack t.flags == 0x26#8) = true := by decide

/-! ## Witnesses: for each statement with hypotheses, a state and operands that meet them together -/

/-- A running state with LDA #$80 at PC. -/
def ldaState : State := start [0xA9#8, 0x80#8]
/-- A running state with BRK at PC. -/
def brkState : State := State.reset
/-- A running state with the unmapped byte 0xFF at PC. -/
def badState : State := start [0xFF#8]

theorem ldaState_steps : ∃ t, step ldaState = .next t := ⟨_, rfl⟩
theorem brkState_steps : ∃ t, step brkState = .next t ∧ t.status = .halted := ⟨_, rfl, rfl⟩
theorem badState_steps : ∃ t, step badState = .next t ∧ t.status = .faulted 0xFF#8 0x8000#16 := ⟨_, rfl, rfl⟩

theorem witness_DecodeOfEncodeGivesTheInstruction :
    Instr.wf [] (.staAbs 0xFFFF#16) = true ∧ Instr.wf [] (.staZp 0xFF#8) = false := by decide
theorem witness_EncodeOfDecodeGivesTheBytes : decode [0x85#8] [0x85#8, 0xFF#8, 0x00#8] = .ok (.staZp 0xFF#8) [0x00#8] := by
  decide
theorem witness_AdmittedTableIsAttestedPlusAdmittedCandidates : admittedRow [] 0x29#8 = none := by
  simp [admittedRow, findRow, opcodeTable, rows00to38, admits]
theorem witness_LengthIsFixedByTheOpcodeByte :
    (Instr.ldaImm 0x00#8).opcode = (Instr.ldaImm 0xFF#8).opcode ∧ Instr.brk.format = .imp ∧ Instr.aslAcc.format = .acc ∧
    (Instr.ldaImm 0#8).format = .imm ∧ (Instr.incZp 0#8).format = .zp ∧ (Instr.ldaZpx 0#8).format = .zpx ∧
    (Instr.bne 0#8).format = .rel ∧ (Instr.jmp 0#16).format = .abs ∧ (Instr.staAbsx 0#16).format = .absx := by decide
theorem witness_StepRunsTheDecodedInstruction : ldaState.status = .running ∧
    decode ldaState.candidates [memRead ldaState ldaState.pc, memRead ldaState (ldaState.pc + 1#16),
      memRead ldaState (ldaState.pc + 2#16)] = .ok (.ldaImm 0x80#8) [0x00#8] := by decide
theorem witness_UnmappedByteFaultsTheBlock :
    badState.status = .running ∧ admittedRow badState.candidates (memRead badState badState.pc) = none := ⟨rfl, rfl⟩
theorem witness_OnlyBrkAndUnmappedBytesStopTheBlock :
    (∃ t, step ldaState = .next t ∧ t.status = .running) ∧ (∃ t, step brkState = .next t ∧ t.status = .halted) ∧
    (∃ t, step badState = .next t ∧ t.status = .faulted 0xFF#8 0x8000#16) :=
  ⟨⟨_, rfl, rfl⟩, ⟨_, rfl, rfl⟩, ⟨_, rfl, rfl⟩⟩
theorem witness_EveryStepTicksTheCounterOnce : (∃ t, step badState = .next t) ∧ (∃ t, step brkState = .next t) :=
  ⟨⟨_, rfl⟩, ⟨_, rfl⟩⟩
theorem witness_EveryStepAppendsOneTraceRecord : (∃ t, step badState = .next t) ∧ (∃ t, step ldaState = .next t) :=
  ⟨⟨_, rfl⟩, ⟨_, rfl⟩⟩
/-- A run that ends by BRK at once, and one still running after its steps. -/
theorem witness_RunsEndOnlyByTheRunStatus : (State.reset.withStatus .halted).status ≠ .running ∧
    (∃ t, runWhileRunning 1 ldaState = .next t ∧ t.status = .running) := ⟨by decide, ⟨_, rfl, rfl⟩⟩
theorem witness_StackPrimitivesPushAndPull : Memory.wf (ldaState.withSp 0x00#8).mem = true ∧
    Memory.wf (ldaState.withSp 0xFF#8).mem = true := by decide
/-- Bytes across the top of memory, and into the PPU window. -/
theorem witness_LaunchReadsTheLoadersBytes : Memory.wf Launch.default.mem0 = true ∧ [0x12#8, 0x34#8].length ≤ 65536 ∧
    memRead (State.launch (loadImage Launch.default 0xFFFF#16 [0x12#8, 0x34#8])) 0x0000#16 = 0x34#8 ∧
    memRead (State.launch (loadImage Launch.default 0x2000#16 [0x56#8])) 0x2000#16 = 0x56#8 ∧
    (∀ k, k < [0x12#8].length → 0x0000#16 ≠ 0xFFFF#16 + BitVec.ofNat 16 k) := by decide
theorem witness_PlacedTableWordIsTheNextInstruction : Memory.wf State.reset.mem = true ∧
    decodeTableWord 8 0xED = some (.sbcAbs 0x0000#16) ∧ decodeTableWord 24 0xFFFF8D = some (.staAbs 0xFFFF#16) := by decide
theorem witness_PcMovesPastTheInstruction :
    decode ldaState.candidates [memRead ldaState ldaState.pc, memRead ldaState (ldaState.pc + 1#16),
      memRead ldaState (ldaState.pc + 2#16)] = .ok (.ldaImm 0x80#8) [0x00#8] ∧ (∃ t, step ldaState = .next t) ∧
    (Instr.ldaImm 0x80#8).mnemonic ∉ [Mnemonic.bne, .beq, .bpl, .jsr, .rts, .jmp] := ⟨by decide, ⟨_, rfl⟩, by decide⟩
/-- Both ends of the window, and the cells next to it. -/
theorem witness_BusWriteStoresOrRedirects : Memory.wf ldaState.mem = true ∧
    (0x2000 ≤ (0x2000#16).toNat ∧ (0x2000#16).toNat ≤ 0x3FFF) ∧ (0x2000 ≤ (0x3FFF#16).toNat ∧ (0x3FFF#16).toNat ≤ 0x3FFF) ∧
    (0x1FFF#16).toNat < 0x2000 ∧ 0x3FFF < (0x4000#16).toNat := by decide
theorem witness_StaStoresOrWritesThePpu : Memory.wf ldaState.mem = true ∧ resolveZp 0xFF#8 = .mem 0x00FF#16 ∧
    resolveAbs 0x3FFF#16 = .mem 0x3FFF#16 ∧ resolveAbsx (ldaState.withX 0x01#8) 0x1FFF#16 = .mem 0x2000#16 ∧
    resolveAbsx (ldaState.withX 0x01#8) 0x3FFF#16 = .mem 0x4000#16 := by decide
theorem witness_BranchesAddTheOffsetWhenTaken :
    (ldaState.flags.z = false ∧ (ldaState.withFlags (unpack 0x26#8)).flags.z = true) ∧
    (ldaState.flags.n = false ∧ (ldaState.withFlags (unpack 0x80#8)).flags.n = true) := by decide
theorem witness_JsrPushesTheAddressOfItsLastByte : Memory.wf ldaState.mem = true ∧
    (ldaState.withPc 0x0000#16).pc = 0xFFFD#16 + 3#16 ∧ ((ldaState.withPc 0x8003#16).withSp 0x00#8).pc = 0x8000#16 + 3#16 := by
  decide
/-- For every statement whose only hypothesis is the canonical form of memory, at the two ends of SP. -/
theorem witness_RtsUndoesJsr : Memory.wf (ldaState.withSp 0x00#8).mem = true ∧ Memory.wf (ldaState.withSp 0xFF#8).mem = true :=
  by decide
theorem witness_PushesStoreAtSpAndDecrement : Memory.wf (ldaState.withSp 0x00#8).mem = true := by decide
theorem witness_PullsUndoPushes : Memory.wf (ldaState.withSp 0x00#8).mem = true := by decide
theorem witness_BrkHaltsAndChangesNothingElse : brkState.status = .running ∧ memRead brkState brkState.pc = 0x00#8 := by decide
theorem witness_PullsIncrementSpAndRead : 0x80#8 = memRead (poke (ldaState.withSp 0xFF#8) 0x0100#16 0x80#8)
    (BitVec.ofNat 16 (0x100 + ((ldaState.withSp 0xFF#8).sp.toNat + 1) % 256)) := by decide
theorem witness_ShiftsMoveABitIntoTheCarry : Memory.wf ldaState.mem = true ∧ resolveZp 0xFF#8 = .mem 0x00FF#16 := by decide
theorem witness_RotatesGoThroughTheCarry : Memory.wf ldaState.mem = true ∧ resolveZp 0x00#8 = .mem 0x0000#16 := by decide
theorem witness_IncAndDecChangeOneByte : Memory.wf ldaState.mem = true ∧ resolveZp 0xFF#8 = .mem 0x00FF#16 := by decide
/-- A power-on state whose SP, flags, PC and status are arbitrary. -/
theorem witness_LaunchIsResetOfThePowerOnState :
    let p : Launch := { Launch.default with a0 := 0x12#8, mem0 := [(0xFFFD, 0x80#8)] }
    let s : State := ((((State.launch p).withSp 0x33#8).withPc 0x1111#16).withFlags (unpack 0xFF#8)).withStatus .halted
    s.a = p.a0 ∧ s.x = p.x0 ∧ s.y = p.y0 ∧ s.mem = p.mem0 ∧ s.icount = 0 ∧ s.ppuLog = [] ∧ s.traceLog = [] ∧
      s.candidates = p.candidateOpcodes := by decide
/-- An instruction of each clause: a store to the PPU, a zero-page write, a push, and one that stores nothing. -/
theorem witness_StoresReachOnlyTheirPages : (∃ t, exec (.staAbs 0x2000#16) ldaState = .next t ∧ t.ppuLog ≠ ldaState.ppuLog) ∧
    (∃ t, exec (.incZp 0xFF#8) ldaState = .next t) ∧ (∃ t, exec .pha (ldaState.withSp 0x00#8) = .next t) ∧
    (∃ t, exec .sec ldaState = .next t) := ⟨⟨_, rfl, by decide⟩, ⟨_, rfl⟩, ⟨_, rfl⟩, ⟨_, rfl⟩⟩
theorem witness_PpuWindowReadsWhatTheLoaderLeft :
    Reachable Launch.default (hostReset State.reset) ∧ 0x2000 ≤ (0x2000#16).toNat ∧ (0x2000#16).toNat ≤ 0x3FFF ∧
    0x2000 ≤ (0x3FFF#16).toNat ∧ (0x3FFF#16).toNat ≤ 0x3FFF :=
  ⟨.call State.reset _ .reset .launch rfl, by decide, by decide, by decide, by decide⟩
theorem witness_NoTransactionStoresInThePpuWindow : (∃ t, hostCall ldaState .step = .next t) ∧
    (∃ t, hostCall ldaState .reset = .next t) := ⟨⟨_, rfl⟩, ⟨_, rfl⟩⟩
theorem witness_RegistersHaveOnlyTheirWriters : (∃ t, exec .tax ldaState = .next t) ∧ (∃ t, exec .brk ldaState = .next t) :=
  ⟨⟨_, rfl⟩, ⟨_, rfl⟩⟩
theorem witness_FlagsHaveOnlyTheirWriters : (∃ t, exec .plp ldaState = .next t) ∧ (∃ t, exec .txs ldaState = .next t) :=
  ⟨⟨_, rfl⟩, ⟨_, rfl⟩⟩
/-- ROL with V, B, D, I, N and Z changed and C kept; BPL with N kept; BNE with Z kept. -/
theorem witness_FlagsAffectOnlyTheirReaders : Instr.rolAcc.mnemonic ≠ .php ∧ (unpack 0xFA#8).c = ldaState.flags.c ∧
    (Instr.bpl 0x05#8).mnemonic = .bpl ∧ (unpack 0x7F#8).n = ldaState.flags.n ∧
    (Instr.bne 0x05#8).mnemonic = .bne ∧ (unpack 0xFD#8).z = ldaState.flags.z := by decide
theorem witness_LogsAndCounterAreNeverRead : ∃ t, step (start [0x8D#8, 0x00#8, 0x20#8]) = .next t ∧
    t.ppuLog = [⟨0x2000#16, 0x00#8⟩] := ⟨_, rfl, rfl⟩
theorem witness_TransactionsKeepTheInvariant : brkState.Inv ∧ ∃ t, step brkState = .next t :=
  ⟨⟨rfl, rfl, fun _ h => absurd h (by simp [brkState, State.reset, State.launch]),
    ⟨rfl, fun _ _ h => by simp [brkState, State.reset, State.launch] at h⟩, trivial⟩, ⟨_, rfl⟩⟩
theorem witness_LaunchStatesMeetTheInvariant :
    Launch.wf { Launch.default with mem0 := [(0x2000, 0x01#8), (0xFFFF, 0xFF#8)], candidateOpcodes := [0x05#8, 0xED#8] } = true :=
  by decide

end Sys2Proof.Tests
end

section
/-! PROOFS. The statements about the state (10_state.md). First the status byte, then what each instruction writes
(section 2), then where PC goes (R15), and last which instructions read a flag (R28). -/

namespace Sys2Proof.Machine

/-! ## The status byte -/

/-- Settles O38: SetZN is a write of the flags alone, of which it writes Z and N. -/
theorem setZNWritesZAndNAlone : Obligations.SetZNWritesZAndNAlone :=
  fun s v => ⟨ZNof_setZN s.flags v, rfl⟩

theorem getLsbD_eq_iff (b : Byte) (k : Nat) (f : Bool) : b.getLsbD k = f ↔ b.toNat / 2 ^ k % 2 = bitNat f := by
  cases f <;> simp [BitVec.getLsbD, Nat.testBit_eq_decide_div_mod_eq, bitNat]

theorem flagBits_le_one (f : Flags) : bitNat f.n ≤ 1 ∧ bitNat f.v ≤ 1 ∧ bitNat f.b ≤ 1 ∧ bitNat f.d ≤ 1 ∧
    bitNat f.i ≤ 1 ∧ bitNat f.z ≤ 1 ∧ bitNat f.c ≤ 1 :=
  ⟨bitNat_le_one _, bitNat_le_one _, bitNat_le_one _, bitNat_le_one _, bitNat_le_one _, bitNat_le_one _, bitNat_le_one _⟩

/-- The weights of `Pack()` add up without a carry, so nothing is lost in the byte (10_state.md R18). -/
theorem pack_toNat (f : Flags) : (pack f).toNat = bitNat f.n * 0x80 + bitNat f.v * 0x40 + 0x20 + bitNat f.b * 0x10 +
    bitNat f.d * 0x08 + bitNat f.i * 0x04 + bitNat f.z * 0x02 + bitNat f.c := by
  have := flagBits_le_one f
  simp only [pack, BitVec.toNat_ofNat]
  omega

/-- The bit of a packed status at each place (10_state.md R18). -/
theorem getLsbD_pack (f : Flags) : (pack f).getLsbD 7 = f.n ∧ (pack f).getLsbD 6 = f.v ∧ (pack f).getLsbD 5 = true ∧
    (pack f).getLsbD 4 = f.b ∧ (pack f).getLsbD 3 = f.d ∧ (pack f).getLsbD 2 = f.i ∧ (pack f).getLsbD 1 = f.z ∧
    (pack f).getLsbD 0 = f.c := by
  have := flagBits_le_one f
  have : bitNat true = 1 := rfl
  simp only [getLsbD_eq_iff, pack_toNat]
  omega

theorem unpack_pack (f : Flags) : unpack (pack f) = f := by
  obtain ⟨hn, hv, -, hb, hd, hi, hz, hc⟩ := getLsbD_pack f
  simp only [unpack, hn, hv, hb, hd, hi, hz, hc]

theorem pack_unpack (b : Byte) : pack (unpack b) = b ||| 0x20#8 := by
  obtain ⟨h7, h6, h5, h4, h3, h2, h1, h0⟩ := getLsbD_pack (unpack b)
  refine BitVec.eq_of_getLsbD_eq fun k hk => ?_
  rw [BitVec.getLsbD_or]
  interval_cases k <;> simp only [h7, h6, h5, h4, h3, h2, h1, h0] <;> simp [unpack]

/-- Settles O39, bit by bit: each place of the packed status is the flag that `Unpack` reads there. -/
theorem packAndUnpackRoundTrip : Obligations.PackAndUnpackRoundTrip := by
  refine ⟨pack_toNat, fun b => ⟨bit7_iff b, ?_, ?_, ?_, ?_, ?_, bit0_iff b⟩, unpack_pack, pack_unpack⟩
  · exact getLsbD_eq_iff b 6 true
  · exact getLsbD_eq_iff b 4 true
  · exact getLsbD_eq_iff b 3 true
  · exact getLsbD_eq_iff b 2 true
  · exact getLsbD_eq_iff b 1 true

/-! ## What an instruction writes -/

/-- What an instruction does to a state, by what it writes (10_state.md section 2): the shape of the state after, with
the values left open, and the mnemonics that have that shape. -/
inductive Effect (i : Instr) (s : State) : State → Prop where
  | accumulator (v : Byte) (f : Flags)
      (h : i.mnemonic ∈ [Mnemonic.lda, .adc, .sbc, .and, .ora, .eor, .txa, .tya] ∨ i.format = .acc) :
      Effect i s ((s.withA v).withFlags f)
  | flagsOnly (f : Flags) (h : i.mnemonic ∈ [Mnemonic.cmp, .sec, .clc, .sei, .cli, .sed, .cld, .clv]) :
      Effect i s (s.withFlags f)
  | storeByte (ea : Word) (v : Byte) (f : Flags)
      (h : i.mnemonic ∈ [Mnemonic.sta, .asl, .lsr, .rol, .ror, .inc, .dec]) :
      Effect i s ((memWrite s ea v).withFlags f)
  | indexX (v : Byte) (f : Flags) (h : i.mnemonic = .tax) : Effect i s ((s.withX v).withFlags f)
  | indexY (v : Byte) (f : Flags) (h : i.mnemonic = .tay) : Effect i s ((s.withY v).withFlags f)
  | pushByte (v : Byte) (h : i.mnemonic ∈ [Mnemonic.pha, .php]) : Effect i s (push s v)
  | pullA (v : Byte) (f : Flags) (h : i.mnemonic = .pla) : Effect i s (((s.withSp (s.sp + 1#8)).withA v).withFlags f)
  | pullFlags (f : Flags) (h : i.mnemonic = .plp) : Effect i s ((s.withSp (s.sp + 1#8)).withFlags f)
  | stackPointer (v : Byte) (h : i.mnemonic = .txs) : Effect i s (s.withSp v)
  | jump (pc : Word) (h : i.mnemonic ∈ [Mnemonic.bne, .beq, .bpl, .jmp]) : Effect i s (s.withPc pc)
  | call (w pc : Word) (h : i.mnemonic = .jsr) : Effect i s ((pushWord s w).withPc pc)
  | ret (pc : Word) (h : i.mnemonic = .rts) : Effect i s ((s.withSp (s.sp + 1#8 + 1#8)).withPc pc)
  | halt (h : i.mnemonic = .brk) : Effect i s (s.withStatus .halted)

theorem opBranch_eq_withPc (s : State) (taken : Bool) (off : Byte) :
    opBranch s taken off = s.withPc (if taken then branchTarget s.pc off else s.pc) := by
  cases taken <;> rfl

/-- A bus write and a write of the flags commute: neither touches what the other does. -/
theorem memWrite_withFlags (s : State) (f : Flags) (ea : Word) (v : Byte) :
    memWrite (s.withFlags f) ea v = (memWrite s ea v).withFlags f := by
  unfold memWrite
  split <;> rfl

theorem storeZN_mem (s : State) (ea : Word) (r : Byte) :
    storeZN s (.mem ea) r = (memWrite s ea r).withFlags (s.flags.setZN r) := by
  rw [storeZN, setZN, store, memWrite_flags]

theorem storeZN_setC_mem (s : State) (c : Bool) (ea : Word) (r : Byte) :
    storeZN (setC s c) (.mem ea) r = (memWrite s ea r).withFlags ((s.flags.withC c).setZN r) := by
  rw [storeZN_mem, setC, memWrite_withFlags]
  rfl

/-- Every instruction has one of the effects. -/
theorem exec_effect (i : Instr) (s : State) : ∃ t, exec i s = .next t ∧ Effect i s t := by
  cases i with
  | ldaZp _ | ldaImm _ | ldaAbs _ | ldaZpx _ | adcZp _ | adcImm _ | adcAbs _ | sbcZp _ | sbcImm _ | sbcAbs _
  | andZp _ | andImm _ | andAbs _ | oraZp _ | oraImm _ | oraAbs _ | eorZp _ | eorImm _ | eorAbs _ | txa | tya =>
    exact ⟨_, rfl, .accumulator _ _ (.inl (by simp [Instr.mnemonic]))⟩
  | aslAcc | lsrAcc | rolAcc | rorAcc => exact ⟨_, rfl, .accumulator _ _ (.inr rfl)⟩
  | cmpZp _ | cmpImm _ | cmpAbs _ | sec | clc | sei | cli | sed | cld | clv =>
    exact ⟨_, rfl, .flagsOnly _ (by simp [Instr.mnemonic])⟩
  | staZp _ | staAbs _ | staAbsx _ =>
    exact ⟨_, congrArg Host.Outcome.next (memWrite_withFlags s s.flags _ s.a),
      .storeByte _ _ _ (by simp [Instr.mnemonic])⟩
  | incZp _ | decZp _ =>
    exact ⟨_, congrArg Host.Outcome.next (storeZN_mem s _ _), .storeByte _ _ _ (by simp [Instr.mnemonic])⟩
  | aslZp _ | lsrZp _ | rolZp _ | rorZp _ =>
    exact ⟨_, congrArg Host.Outcome.next (storeZN_setC_mem s _ _ _), .storeByte _ _ _ (by simp [Instr.mnemonic])⟩
  | tax => exact ⟨_, rfl, .indexX _ _ rfl⟩
  | tay => exact ⟨_, rfl, .indexY _ _ rfl⟩
  | pha | php => exact ⟨_, rfl, .pushByte _ (by simp [Instr.mnemonic])⟩
  | pla => exact ⟨_, rfl, .pullA _ _ rfl⟩
  | plp => exact ⟨_, rfl, .pullFlags _ rfl⟩
  | txs => exact ⟨_, rfl, .stackPointer _ rfl⟩
  | bne _ | beq _ | bpl _ =>
    exact ⟨_, congrArg Host.Outcome.next (opBranch_eq_withPc s _ _), .jump _ (by simp [Instr.mnemonic])⟩
  | jmp _ => exact ⟨_, rfl, .jump _ (by simp [Instr.mnemonic])⟩
  | jsr _ => exact ⟨_, rfl, .call _ _ rfl⟩
  | rts => exact ⟨_, rfl, .ret _ rfl⟩
  | brk => exact ⟨_, rfl, .halt rfl⟩

theorem effect_of_exec {i : Instr} {s t : State} (h : exec i s = .next t) : Effect i s t := by
  obtain ⟨u, hu, he⟩ := exec_effect i s
  rw [h] at hu
  cases hu
  exact he

/-- Settles O47, by the effect of the instruction: the fields it does not write are those of the state before. -/
theorem registersHaveOnlyTheirWriters : Obligations.RegistersHaveOnlyTheirWriters := by
  intro i s t h
  cases effect_of_exec h with
  | accumulator v f hm =>
    refine ⟨fun _ => rfl, fun _ => rfl, fun hk => ?_, fun _ => rfl, fun _ => rfl, fun _ => rfl, rfl, rfl, rfl⟩
    simp only [List.mem_cons, List.not_mem_nil, or_false] at hm hk
    tauto
  | flagsOnly f hm => simp
  | storeByte ea v f hm => simp
  | indexX v f hm => simp [hm]
  | indexY v f hm => simp [hm]
  | pushByte v hm =>
    rw [List.mem_pair] at hm
    rcases hm with hm | hm <;> simp [hm]
  | pullA v f hm => simp [hm]
  | pullFlags f hm => simp [hm]
  | stackPointer v hm => simp [hm]
  | jump pc hm =>
    simp only [List.mem_cons, List.not_mem_nil, or_false] at hm
    rcases hm with hm | hm | hm | hm <;> simp [hm]
  | call w pc hm => simp [hm, pushWord]
  | ret pc hm => simp [hm]
  | halt hm => simp [hm]

/-! ## Where PC goes -/

/-- The opcode byte and the operand bytes make up the length that the format fixes (30_encoding.md R51). -/
theorem length_eq_operandBytes (i : Instr) : i.length = i.operandBytes.length + 1 := by
  cases i <;> rfl

@[simp] theorem withPc_withPc (s : State) (p q : Word) : (s.withPc p).withPc q = s.withPc q := rfl

/-- Where the decoder reads an instruction from the bytes at PC, the fetch gives it and leaves PC past it (40_dispatch.md
R64 to R66). -/
theorem fetch_of_decode {s : State} {i : Instr} {rest : List Byte}
    (h : decode s.candidates [memRead s s.pc, memRead s (s.pc + 1#16), memRead s (s.pc + 2#16)] = .ok i rest) :
    fetch s = .instr (memRead s s.pc) i (s.withPc (s.pc + BitVec.ofNat 16 i.length)) := by
  simp only [decode] at h
  cases hr : admittedRow s.candidates (memRead s s.pc) with
  | none => simp [hr] at h
  | some r =>
    simp only [hr] at h
    simp only [fetch, fetchByte_fst, fetchByte_snd, hr, length_eq_operandBytes]
    rcases shape_of_mem (admittedRow_eq_some hr).1 with ⟨j, hs, -, -, hb⟩ | ⟨mk, hs, hb⟩ | ⟨mk, hs, hb⟩ <;>
      simp only [hs, decodeOperands, Decoded.ok.injEq] at h <;> obtain ⟨rfl, -⟩ := h
    · simp [hs, fetchOperands, hb]
    · simp [hs, fetchOperands, hb, BitVec.add_assoc]
    · simp [hs, fetchOperands, hb, wordBytes, BitVec.add_assoc]

/-- A step of a running block whose bytes at PC decode runs that instruction with PC past it (40_dispatch.md R66). -/
theorem step_of_decode {s : State} {i : Instr} {rest : List Byte} (hs : s.status = .running)
    (h : decode s.candidates [memRead s s.pc, memRead s (s.pc + 1#16), memRead s (s.pc + 2#16)] = .ok i rest) :
    step s = endStep (memRead s s.pc) s.pc (exec i ((tick s).withPc (s.pc + BitVec.ofNat 16 i.length))) := by
  have hf : fetch (tick s) = _ := fetch_of_decode (s := tick s) h
  simp only [step, hs, hf]
  rfl

/-- Settles O13: the fetch leaves PC past the instruction, and an instruction not listed does not write PC. -/
theorem pcMovesPastTheInstruction : Obligations.PcMovesPastTheInstruction := by
  intro s t i rest hd ht hm
  rw [step_of_decode (step_cases ht).1 hd] at ht
  obtain ⟨u, hu⟩ := exec_next i ((tick s).withPc (s.pc + BitVec.ofNat 16 i.length))
  obtain ⟨-, -, -, -, hpc, -⟩ := registersHaveOnlyTheirWriters i _ u hu
  rw [hu] at ht
  cases ht
  rw [appendTrace_pc, hpc hm, State.withPc_pc, BitVec.toNat_add, BitVec.toNat_ofNat, Nat.add_mod_mod]

/-! ## Which instructions read a flag

Two runs of an instruction, from a state and from the same state with other flags, are followed side by side. -/

/-- A flag has `x` in one run and `y` in the other before, `x'` and `y'` after: it is the same in both runs after, or
neither run has changed it. -/
def BitFollows (x y x' y' : Bool) : Prop := y' = x' ∨ y' = y ∧ x' = x

theorem BitFollows.refl (x y : Bool) : BitFollows x y x y := .inr ⟨rfl, rfl⟩

theorem BitFollows.trans {x y x' y' x'' y'' : Bool} (h : BitFollows x y x' y') (h' : BitFollows x' y' x'' y'') :
    BitFollows x y x'' y'' := by
  obtain h' | ⟨hy, hx⟩ := h'
  · exact .inl h'
  · rw [hy, hx]
    exact h

/-- Each of the seven flags is the same in both runs after, or neither run has changed it. -/
def FlagsFollow (f g f' g' : Flags) : Prop :=
  BitFollows f.n g.n f'.n g'.n ∧ BitFollows f.v g.v f'.v g'.v ∧ BitFollows f.b g.b f'.b g'.b ∧
  BitFollows f.d g.d f'.d g'.d ∧ BitFollows f.i g.i f'.i g'.i ∧ BitFollows f.z g.z f'.z g'.z ∧
  BitFollows f.c g.c f'.c g'.c

theorem FlagsFollow.refl (f g : Flags) : FlagsFollow f g f g :=
  ⟨.refl _ _, .refl _ _, .refl _ _, .refl _ _, .refl _ _, .refl _ _, .refl _ _⟩

theorem FlagsFollow.trans {f g f' g' f'' g'' : Flags} (h : FlagsFollow f g f' g') (h' : FlagsFollow f' g' f'' g'') :
    FlagsFollow f g f'' g'' := by
  obtain ⟨n, v, b, d, i, z, c⟩ := h
  obtain ⟨n', v', b', d', i', z', c'⟩ := h'
  exact ⟨n.trans n', v.trans v', b.trans b', d.trans d', i.trans i', z.trans z', c.trans c'⟩

/-- A write of the flags that reads none of them: each flag is kept or given a value the flags before have no part in. -/
def FlagBlind (F : Flags → Flags) : Prop := ∀ f g, FlagsFollow f g (F f) (F g)

theorem flagBlind_const (w : Flags) : FlagBlind fun _ => w :=
  fun _ _ => ⟨.inl rfl, .inl rfl, .inl rfl, .inl rfl, .inl rfl, .inl rfl, .inl rfl⟩
theorem flagBlind_setZN (v : Byte) : FlagBlind (·.setZN v) :=
  fun _ _ => ⟨.inl rfl, .refl _ _, .refl _ _, .refl _ _, .refl _ _, .inl rfl, .refl _ _⟩
theorem flagBlind_withC (w : Bool) : FlagBlind (·.withC w) :=
  fun _ _ => ⟨.refl _ _, .refl _ _, .refl _ _, .refl _ _, .refl _ _, .refl _ _, .inl rfl⟩
theorem flagBlind_withV (w : Bool) : FlagBlind (·.withV w) :=
  fun _ _ => ⟨.refl _ _, .inl rfl, .refl _ _, .refl _ _, .refl _ _, .refl _ _, .refl _ _⟩
theorem flagBlind_withI (w : Bool) : FlagBlind (·.withI w) :=
  fun _ _ => ⟨.refl _ _, .refl _ _, .refl _ _, .refl _ _, .inl rfl, .refl _ _, .refl _ _⟩
theorem flagBlind_withD (w : Bool) : FlagBlind (·.withD w) :=
  fun _ _ => ⟨.refl _ _, .refl _ _, .refl _ _, .inl rfl, .refl _ _, .refl _ _, .refl _ _⟩

theorem FlagBlind.comp {F G : Flags → Flags} (hF : FlagBlind F) (hG : FlagBlind G) : FlagBlind fun f => F (G f) :=
  fun f g => (hG f g).trans (hF (G f) (G g))

/-- The runs from `s` and from `s` with the flags `f` have come to `t` and `u`, which differ in flags alone, and in those
only where neither run has changed them. -/
def FlagTwins (s : State) (f : Flags) (t u : State) : Prop :=
  u = t.withFlags u.flags ∧ FlagsFollow s.flags f t.flags u.flags

/-- An operation that neither reads nor writes a flag. -/
def KeepsFlagsApart (op : State → State) : Prop := ∀ s f, op (s.withFlags f) = (op s).withFlags f

section
variable {s t u : State} {f : Flags}

theorem FlagTwins.start (s : State) (f : Flags) : FlagTwins s f s (s.withFlags f) := ⟨rfl, .refl _ _⟩

theorem FlagTwins.map {op : State → State} (hop : KeepsFlagsApart op) (h : FlagTwins s f t u) :
    FlagTwins s f (op t) (op u) := by
  obtain ⟨hu, hf⟩ := h
  have hopt : op t = (op t).withFlags t.flags := hop t t.flags
  have hopu : op u = (op t).withFlags u.flags := by rw [← hop, ← hu]
  rw [hopu]
  refine ⟨rfl, ?_⟩
  rw [hopt]
  exact hf

theorem FlagTwins.mapFlags {F : Flags → Flags} (hF : FlagBlind F) (h : FlagTwins s f t u) :
    FlagTwins s f (t.withFlags (F t.flags)) (u.withFlags (F u.flags)) := by
  obtain ⟨hu, hf⟩ := h
  refine ⟨?_, hf.trans (hF _ _)⟩
  rw [hu]
  rfl

theorem FlagTwins.setZN (v : Byte) (h : FlagTwins s f t u) : FlagTwins s f (setZN t v) (setZN u v) :=
  h.mapFlags (flagBlind_setZN v)
end

theorem keepsFlagsApart_memWrite (ea : Word) (v : Byte) : KeepsFlagsApart (memWrite · ea v) :=
  fun s f => memWrite_withFlags s f ea v

theorem keepsFlagsApart_store (p : Place) (v : Byte) : KeepsFlagsApart (store · p v) := by
  cases p with
  | mem ea => exact keepsFlagsApart_memWrite ea v
  | acc => exact fun _ _ => rfl

theorem keepsFlagsApart_push (v : Byte) : KeepsFlagsApart (push · v) := by
  intro s f
  simp only [push, State.withFlags_sp, memWrite_withFlags]
  rfl

@[simp] theorem loadPlace_withFlags (s : State) (f : Flags) (p : Place) :
    loadPlace (s.withFlags f) p = loadPlace s p := by
  cases p <;> rfl

@[simp] theorem load_withFlags (s : State) (f : Flags) (o : Opnd) : load (s.withFlags f) o = load s o := by
  cases o with
  | imm v => rfl
  | place p => exact loadPlace_withFlags s f p

section
variable (s : State) (f : Flags)

theorem flagTwins_writeA (v : Byte) : FlagTwins s f (setZN (s.withA v) v) (setZN ((s.withFlags f).withA v) v) :=
  ((FlagTwins.start s f).map (op := (·.withA v)) fun _ _ => rfl).setZN v

theorem flagTwins_storeZN {t u : State} (p : Place) (r : Byte) (h : FlagTwins s f t u) :
    FlagTwins s f (storeZN t p r) (storeZN u p r) :=
  (h.map (keepsFlagsApart_store p r)).setZN r

theorem flagTwins_shift (c : Bool) (p : Place) (r : Byte) :
    FlagTwins s f (storeZN (setC s c) p r) (storeZN (setC (s.withFlags f) c) p r) :=
  flagTwins_storeZN s f p r ((FlagTwins.start s f).mapFlags (flagBlind_withC c))

theorem flagTwins_adc (o : Opnd) (hc : f.c = s.flags.c) : FlagTwins s f (opAdc s o) (opAdc (s.withFlags f) o) := by
  simp only [opAdc, load_withFlags, State.withFlags_flags, Flags.afterAdc, hc]
  exact ((FlagTwins.start s f).map (op := (·.withA _)) fun _ _ => rfl).mapFlags
    ((flagBlind_setZN _).comp ((flagBlind_withV _).comp (flagBlind_withC _)))

theorem flagTwins_sbc (o : Opnd) (hc : f.c = s.flags.c) : FlagTwins s f (opSbc s o) (opSbc (s.withFlags f) o) := by
  simp only [opSbc, load_withFlags, State.withFlags_flags, Flags.afterSbc, hc]
  exact ((FlagTwins.start s f).map (op := (·.withA _)) fun _ _ => rfl).mapFlags
    ((flagBlind_setZN _).comp ((flagBlind_withC _).comp (flagBlind_withV _)))

theorem flagTwins_branch {c d : Bool} (off : Byte) (h : d = c) :
    FlagTwins s f (opBranch s c off) (opBranch (s.withFlags f) d off) := by
  subst h
  cases d with
  | false => exact .start s f
  | true => exact (FlagTwins.start s f).map (op := (·.withPc (branchTarget s.pc off))) fun _ _ => rfl

theorem flagTwins_cmp (o : Opnd) : FlagTwins s f (opCmp s o) (opCmp (s.withFlags f) o) := by
  simp only [opCmp, load_withFlags, Flags.afterCmp]
  exact (FlagTwins.start s f).mapFlags ((flagBlind_setZN _).comp (flagBlind_withC _))
end

/-- R28 for one instruction: where the two runs agree on the flags it reads, they end as twins. PHP reads all seven. -/
theorem exec_flagTwins (i : Instr) (s : State) (f : Flags) (hphp : i.mnemonic ≠ .php)
    (hn : i.mnemonic = .bpl → f.n = s.flags.n) (hz : i.mnemonic = .bne ∨ i.mnemonic = .beq → f.z = s.flags.z)
    (hc : i.mnemonic ∈ [Mnemonic.adc, .sbc, .rol, .ror] → f.c = s.flags.c) :
    ∃ t u, exec i s = .next t ∧ exec i (s.withFlags f) = .next u ∧ FlagTwins s f t u := by
  have start := FlagTwins.start s f
  cases i with
  | php => exact absurd rfl hphp
  | ldaZp _ | ldaImm _ | ldaAbs _ | ldaZpx _ | andZp _ | andImm _ | andAbs _ | oraZp _ | oraImm _ | oraAbs _
  | eorZp _ | eorImm _ | eorAbs _ | txa | tya => exact ⟨_, _, rfl, rfl, flagTwins_writeA s f _⟩
  | adcZp _ | adcImm _ | adcAbs _ => exact ⟨_, _, rfl, rfl, flagTwins_adc s f _ (hc (by simp [Instr.mnemonic]))⟩
  | sbcZp _ | sbcImm _ | sbcAbs _ => exact ⟨_, _, rfl, rfl, flagTwins_sbc s f _ (hc (by simp [Instr.mnemonic]))⟩
  | cmpZp _ | cmpImm _ | cmpAbs _ => exact ⟨_, _, rfl, rfl, flagTwins_cmp s f _⟩
  | staZp _ | staAbs _ | staAbsx _ => exact ⟨_, _, rfl, rfl, start.map (keepsFlagsApart_memWrite _ _)⟩
  | incZp _ | decZp _ => exact ⟨_, _, rfl, rfl, flagTwins_storeZN s f _ _ start⟩
  | aslZp _ | aslAcc | lsrZp _ | lsrAcc => exact ⟨_, _, rfl, rfl, flagTwins_shift s f _ _ _⟩
  | rolZp _ | rolAcc | rorZp _ | rorAcc =>
    have hc := hc (by simp [Instr.mnemonic])
    refine ⟨_, _, rfl, rfl, ?_⟩
    simp only [opRol, opRor, State.withFlags_flags, loadPlace_withFlags, hc]
    exact flagTwins_shift s f _ _ _
  | tax => exact ⟨_, _, rfl, rfl, (start.map (op := (·.withX s.a)) fun _ _ => rfl).setZN s.a⟩
  | tay => exact ⟨_, _, rfl, rfl, (start.map (op := (·.withY s.a)) fun _ _ => rfl).setZN s.a⟩
  | txs => exact ⟨_, _, rfl, rfl, start.map (op := (·.withSp s.x)) fun _ _ => rfl⟩
  | pha => exact ⟨_, _, rfl, rfl, start.map (keepsFlagsApart_push s.a)⟩
  | pla =>
    exact ⟨_, _, rfl, rfl,
      (start.map (op := fun s' => (afterPull s').withA (pull s).1) fun _ _ => rfl).setZN (pull s).1⟩
  | plp =>
    exact ⟨_, _, rfl, rfl,
      (start.map (op := afterPull) fun _ _ => rfl).mapFlags (flagBlind_const (unpack (pull s).1))⟩
  | bne off => exact ⟨_, _, rfl, rfl, flagTwins_branch s f off (congrArg not (hz (.inl rfl)))⟩
  | beq off => exact ⟨_, _, rfl, rfl, flagTwins_branch s f off (hz (.inr rfl))⟩
  | bpl off => exact ⟨_, _, rfl, rfl, flagTwins_branch s f off (congrArg not (hn rfl))⟩
  | jmp addr => exact ⟨_, _, rfl, rfl, start.map (op := (·.withPc addr)) fun _ _ => rfl⟩
  | jsr addr =>
    exact ⟨_, _, rfl, rfl, ((start.map (keepsFlagsApart_push _)).map (keepsFlagsApart_push _)).map
      (op := (·.withPc addr)) fun _ _ => rfl⟩
  | rts =>
    exact ⟨_, _, rfl, rfl, start.map (op := fun s => (pullWord s).2.withPc ((pullWord s).1 + 1#16)) fun _ _ => rfl⟩
  | brk => exact ⟨_, _, rfl, rfl, start.map (op := haltBrk) fun _ _ => rfl⟩
  | sec => exact ⟨_, _, rfl, rfl, start.mapFlags (flagBlind_withC true)⟩
  | clc => exact ⟨_, _, rfl, rfl, start.mapFlags (flagBlind_withC false)⟩
  | sei => exact ⟨_, _, rfl, rfl, start.mapFlags (flagBlind_withI true)⟩
  | cli => exact ⟨_, _, rfl, rfl, start.mapFlags (flagBlind_withI false)⟩
  | sed => exact ⟨_, _, rfl, rfl, start.mapFlags (flagBlind_withD true)⟩
  | cld => exact ⟨_, _, rfl, rfl, start.mapFlags (flagBlind_withD false)⟩
  | clv => exact ⟨_, _, rfl, rfl, start.mapFlags (flagBlind_withV false)⟩

/-- Settles O49, by following the two runs through the operations that each instruction is made of. -/
theorem flagsAffectOnlyTheirReaders : Obligations.FlagsAffectOnlyTheirReaders :=
  exec_flagTwins

end Sys2Proof.Machine
end

section
/-! PROOFS. The statements about memory and the bus (20_memory.md). First the bus write, the stack and the word that JSR
pushes, then the pages that each instruction reaches (R48), and last what every transaction keeps: the PPU window (R47)
and the invariant of Safety.lean. -/

namespace Sys2Proof.Machine

/-! ## The bus write -/

/-- Settles O14, by the two ways a bus write can go. -/
theorem busWriteStoresOrRedirects : Obligations.BusWriteStoresOrRedirects := by
  intro s addr v hw
  constructor
  · intro ha
    rw [memWrite_redirect s v ((inPpuWindow_iff addr).2 ha)]
    exact ⟨rfl, fun _ => rfl⟩
  · intro ha
    have hp : inPpuWindow addr = false := by
      rw [← Bool.not_eq_true, inPpuWindow_iff]
      omega
    rw [memWrite_plain s v hp]
    exact ⟨rfl, stored_withMem v hw⟩

/-- A bus write leaves every cell but its own alone. -/
theorem memRead_memWrite_ne (s : State) {ea b : Word} (v : Byte) (h : b ≠ ea) :
    memRead (memWrite s ea v) b = memRead s b := by
  rcases memWrite_cases s ea v with ⟨-, hc⟩ | ⟨-, hc⟩ <;> rw [hc]
  · rfl
  · exact Memory.readByte_writeByte_ne _ _ fun he => h (BitVec.eq_of_toNat_eq he)

/-- A bus write appends to the PPU log nothing, or the one write of its byte (20_memory.md R31, R32). -/
theorem memWrite_ppuLog_cases (s : State) (ea : Word) (v : Byte) :
    (memWrite s ea v).ppuLog = s.ppuLog ∨ ∃ w, (memWrite s ea v).ppuLog = s.ppuLog ++ [w] ∧ w.value = v := by
  rcases memWrite_cases s ea v with ⟨-, hc⟩ | ⟨-, hc⟩ <;> rw [hc]
  · exact .inr ⟨_, rfl, rfl⟩
  · exact .inl rfl

/-- The fold of R33 ends in one of the eight registers, so a bus write keeps the log's form. -/
theorem memWrite_ppuLogWf {s : State} (ea : Word) (v : Byte) (h : ppuLogWf s.ppuLog) :
    ppuLogWf (memWrite s ea v).ppuLog := by
  rcases memWrite_cases s ea v with ⟨-, hc⟩ | ⟨-, hc⟩ <;> rw [hc]
  · intro w hw
    rcases List.mem_append.1 hw with hw | hw
    · exact h w hw
    · rw [List.mem_singleton.1 hw]
      simp only [ppuReg, BitVec.toNat_ofNat]
      omega
  · exact h

/-! ## The stack -/

theorem hiByte_toNat (w : Word) : (hiByte w).toNat = w.toNat / 256 := by
  have := w.isLt
  simp only [hiByte, BitVec.toNat_ofNat]
  omega

theorem loByte_toNat (w : Word) : (loByte w).toNat = w.toNat % 256 := BitVec.toNat_ofNat _ _

/-- A push leaves every cell but the one SP names alone. -/
theorem memRead_push_ne (s : State) {b : Word} (v : Byte) (h : b ≠ stackAddr s.sp) :
    memRead (push s v) b = memRead s b :=
  memRead_memWrite_ne s v h

theorem push_window (s : State) {b : Word} (v : Byte) (hb : inPpuWindow b = true) :
    memRead (push s v) b = memRead s b :=
  memWrite_window s _ b v hb

/-- The cells a word is pushed to are different, SP wrapping or not. -/
theorem stackAddr_ne_pred (sp : Byte) : stackAddr sp ≠ stackAddr (sp - 1#8) := by
  intro h
  have := congrArg BitVec.toNat (stackAddr_inj h)
  rw [sub_one_toNat] at this
  omega

theorem pushWord_eq (s : State) (w : Word) : pushWord s w = push (push s (hiByte w)) (loByte w) := rfl

theorem pushWord_sp_toNat (s : State) (w : Word) : (pushWord s w).sp.toNat = (s.sp.toNat + 254) % 256 := by
  rw [pushWord_eq, push_sp, push_sp, sub_one_toNat, sub_one_toNat]
  omega

theorem pushWord_frame (s : State) (w : Word) :
    pushWord s w = { s with mem := (pushWord s w).mem, sp := (pushWord s w).sp } := by
  simp only [pushWord_eq, push_eq]
  rfl

/-- The high byte goes to the cell SP names, and the push of the low byte does not reach it (20_memory.md R38). -/
theorem memRead_pushWord_hi {s : State} (w : Word) (hw : Memory.wf s.mem = true) :
    memRead (pushWord s w) (stackAddr s.sp) = hiByte w := by
  rw [pushWord_eq, memRead_push_ne _ _ (by rw [push_sp]; exact stackAddr_ne_pred s.sp)]
  exact (push_stored (hiByte w) hw).1

/-- The low byte goes to the cell below (20_memory.md R38). -/
theorem memRead_pushWord_lo {s : State} (w : Word) (hw : Memory.wf s.mem = true) :
    memRead (pushWord s w) (stackAddr (s.sp - 1#8)) = loByte w := by
  rw [pushWord_eq, ← push_sp s (hiByte w)]
  exact (push_stored (loByte w) (push_wf (hiByte w) hw)).1

theorem memRead_pushWord_ne (s : State) (w : Word) {b : Word} (hh : b ≠ stackAddr s.sp)
    (hl : b ≠ stackAddr (s.sp - 1#8)) : memRead (pushWord s w) b = memRead s b := by
  rw [pushWord_eq, memRead_push_ne _ _ (by rwa [push_sp]), memRead_push_ne _ _ hh]

/-- The cell that the `k`-th pull from SP reads (20_memory.md R37, R39). -/
theorem stackAddr_add (sp : Byte) (k : Nat) :
    stackAddr (sp + BitVec.ofNat 8 k) = BitVec.ofNat 16 (0x100 + (sp.toNat + k) % 256) := by
  rw [stackAddr, BitVec.toNat_add, BitVec.toNat_ofNat, Nat.add_mod_mod]

/-- `PullWord` after `PushWord(w)` returns `w` and restores SP (20_memory.md R39). -/
theorem pullWord_pushWord {s : State} (w : Word) (hw : Memory.wf s.mem = true) :
    pullWord (pushWord s w) = (w, { s with mem := (pushWord s w).mem }) := by
  have hsp : (pushWord s w).sp = s.sp - 1#8 - 1#8 := by rw [pushWord_eq, push_sp, push_sp]
  have hlo : (pushWord s w).sp + 1#8 = s.sp - 1#8 := by rw [hsp, BitVec.sub_add_cancel]
  have hhi : (pushWord s w).sp + 1#8 + 1#8 = s.sp := by rw [hlo, BitVec.sub_add_cancel]
  apply Prod.ext
  · rw [pullWord_fst, hhi, hlo, memRead_pushWord_hi w hw, memRead_pushWord_lo w hw, wordOf_hiByte_loByte]
  · rw [pullWord_snd, hhi, pushWord_frame]
    rfl

/-- Settles O15, from the stack's own laws: each primitive stores, reads and moves SP as R36 to R39 say. -/
theorem stackPrimitivesPushAndPull : Obligations.StackPrimitivesPushAndPull := by
  intro s v w hw
  have hone : stackAddr (s.sp + 1#8) = BitVec.ofNat 16 (0x100 + (s.sp.toNat + 1) % 256) := stackAddr_add s.sp 1
  have htwo : s.sp + 1#8 + 1#8 = s.sp + 2#8 := BitVec.add_assoc _ _ _
  refine ⟨⟨stackAddr_toNat s.sp, push_stored v hw, ?_, ?_⟩, ⟨?_, ?_, rfl⟩, ⟨?_, ?_, pushWord_sp_toNat s w,
    fun b hh hl => memRead_pushWord_ne s w hh hl, pushWord_frame s w⟩, ?_, ?_, pullWord_pushWord w hw⟩
  · rw [push_sp, sub_one_toNat]
  · rw [push_eq]
    rfl
  · rw [pull_fst, hone]
  · rw [pull_snd, State.withSp_sp, BitVec.toNat_add]
    rfl
  · rw [memRead_pushWord_hi w hw, hiByte_toNat]
  · rw [memRead_pushWord_lo w hw, loByte_toNat]
  · rw [pullWord_fst, wordOf_toNat, hone, htwo, stackAddr_add s.sp 2]
  · rw [pullWord_snd, htwo]
    rfl

/-- JSR's operand word comes back from its bytes, the low byte first (30_encoding.md R52). -/
theorem encoded_jsr (addr : Word) : Encoded (.jsr addr) .attested [0x20#8, loByte addr, hiByte addr] := by
  refine ⟨rfl, rfl, ?_⟩
  show Decoded.ok (.jsr (wordOf (hiByte addr) (loByte addr))) [] = .ok (.jsr addr) []
  rw [wordOf_hiByte_loByte]

/-- Settles O25: JSR is the push of the word `PC - 1`, which is `p + 2`, and a write of PC. -/
theorem jsrPushesTheAddressOfItsLastByte : Obligations.JsrPushesTheAddressOfItsLastByte := by
  refine ⟨encoded_jsr, fun s addr p hw hpc => ?_⟩
  have hlast : (s.pc - 1#16).toNat = (p.toNat + 2) % 65536 := by
    rw [hpc]
    bv_omega
  refine ⟨(pushWord s (s.pc - 1#16)).withPc addr, rfl, rfl, pushWord_sp_toNat s _, stackAddr_toNat s.sp, ?_, ?_, ?_,
    fun b hh hl => memRead_pushWord_ne s _ hh hl, ?_⟩
  · rw [stackAddr_toNat, sub_one_toNat]
  · rw [memRead_withPc, memRead_pushWord_hi _ hw, hiByte_toNat, hlast]
  · rw [memRead_withPc, memRead_pushWord_lo _ hw, loByte_toNat, hlast]
  · rw [pushWord_frame]
    rfl

/-! ## The pages that each instruction reaches -/

/-- STA is one bus write of A (41_load_store.md R81). -/
theorem exec_sta {i : Instr} (h : i.mnemonic = .sta) (s : State) : ∃ ea, exec i s = .next (memWrite s ea s.a) := by
  cases i with
  | staZp _ | staAbs _ | staAbsx _ => exact ⟨_, rfl⟩
  | _ => cases h

/-- A shift, rotate, INC or DEC writes A, or one cell of the zero page, and flags (47_shift_incdec.md). -/
theorem exec_shiftIncDec {i : Instr} (h : i.mnemonic ∈ [Mnemonic.asl, .lsr, .rol, .ror, .inc, .dec]) (s : State) :
    (∃ v f, exec i s = .next ((s.withA v).withFlags f)) ∨
    ∃ z v f, exec i s = .next ((memWrite s (zext16 z) v).withFlags f) := by
  cases i with
  | aslAcc | lsrAcc | rolAcc | rorAcc => exact .inl ⟨_, _, rfl⟩
  | aslZp _ | lsrZp _ | rolZp _ | rorZp _ =>
    exact .inr ⟨_, _, _, congrArg Host.Outcome.next (storeZN_setC_mem s _ _ _)⟩
  | incZp _ | decZp _ => exact .inr ⟨_, _, _, congrArg Host.Outcome.next (storeZN_mem s _ _)⟩
  | _ => simp [Instr.mnemonic] at h

section
variable {i : Instr} {s t : State}

theorem shiftIncDec_bus (h : exec i s = .next t) (hm : i.mnemonic ∈ [Mnemonic.asl, .lsr, .rol, .ror, .inc, .dec]) :
    t.ppuLog = s.ppuLog ∧ ∀ b : Word, 0xFF < b.toNat → memRead t b = memRead s b := by
  rcases exec_shiftIncDec hm s with ⟨v, f, hx⟩ | ⟨z, v, f, hx⟩ <;> cases h.symm.trans hx
  · exact ⟨rfl, fun _ _ => rfl⟩
  · refine ⟨by rw [memWrite_plain s v (zext16_plain z)]; rfl, fun b hb => memRead_memWrite_ne s v fun he => ?_⟩
    have := z.isLt
    rw [he, zext16_toNat] at hb
    omega

/-- Only STA writes the PPU: the other stores are in the zero page or the stack page (20_memory.md R48). -/
theorem exec_ppuLog_of_ne_sta (h : exec i s = .next t) (hm : i.mnemonic ≠ .sta) : t.ppuLog = s.ppuLog := by
  cases effect_of_exec h with
  | storeByte ea v f hi => exact (shiftIncDec_bus h ((List.mem_cons.1 hi).resolve_left hm)).1
  | pushByte v _ => exact push_ppuLog s v
  | call w pc _ => exact (push_ppuLog _ _).trans (push_ppuLog _ _)
  | _ => rfl

theorem memRead_push_outside (v : Byte) {b : Word} (hb : b.toNat < 0x100 ∨ 0x1FF < b.toNat) :
    memRead (push s v) b = memRead s b := by
  refine memRead_push_ne s v fun he => ?_
  have := s.sp.isLt
  rw [he, stackAddr_toNat] at hb
  omega

/-- PHA, PHP and JSR store in the stack page alone. -/
theorem pushes_outside (h : exec i s = .next t) (hm : i.mnemonic ∈ [Mnemonic.pha, .php, .jsr]) {b : Word}
    (hb : b.toNat < 0x100 ∨ 0x1FF < b.toNat) : memRead t b = memRead s b := by
  cases effect_of_exec h with
  | storeByte ea v f hi =>
    simp only [List.mem_cons, List.not_mem_nil, or_false] at hi hm
    rcases hm with hm | hm | hm <;> simp [hm] at hi
  | pushByte v _ => exact memRead_push_outside v hb
  | call w pc _ => exact (memRead_push_outside _ hb).trans (memRead_push_outside _ hb)
  | _ => rfl

theorem sameMemory_of_not_storing (h : exec i s = .next t)
    (hm : i.mnemonic ∉ [Mnemonic.asl, .lsr, .rol, .ror, .inc, .dec, .pha, .php, .jsr, .sta]) : SameMemory s t := by
  cases effect_of_exec h with
  | storeByte ea v f hi =>
    simp only [List.mem_cons, List.not_mem_nil, or_false] at hi hm
    tauto
  | pushByte v hi =>
    simp only [List.mem_cons, List.not_mem_nil, or_false] at hi hm
    tauto
  | call w pc hi => simp [hi] at hm
  | _ => exact fun _ => rfl
end

/-- Settles O44, a lemma for each page. -/
theorem storesReachOnlyTheirPages : Obligations.StoresReachOnlyTheirPages := by
  intro i s t h
  refine ⟨exec_ppuLog_of_ne_sta h, ?_, fun hm => (shiftIncDec_bus h hm).2, fun hm b hb => pushes_outside h hm hb,
    sameMemory_of_not_storing h⟩
  by_cases hm : i.mnemonic = .sta
  · obtain ⟨ea, hx⟩ := exec_sta hm s
    cases h.symm.trans hx
    exact memWrite_ppuLog_cases s ea s.a
  · exact .inl (exec_ppuLog_of_ne_sta h hm)

/-! ## What every transaction keeps -/

section
variable {i : Instr} {s t : State}

theorem effect_window (he : Effect i s t) {b : Word} (hb : inPpuWindow b = true) : memRead t b = memRead s b := by
  cases he with
  | storeByte ea v f _ => exact memWrite_window s ea b v hb
  | pushByte v _ => exact push_window s v hb
  | call w pc _ => exact (push_window _ _ hb).trans (push_window _ _ hb)
  | _ => rfl

theorem effect_wf (he : Effect i s t) (hw : Memory.wf s.mem = true) : Memory.wf t.mem = true := by
  cases he with
  | storeByte ea v f _ => exact memWrite_wf ea v hw
  | pushByte v _ => exact push_wf v hw
  | call w pc _ => exact push_wf _ (push_wf _ hw)
  | _ => exact hw

theorem effect_ppuLogWf (he : Effect i s t) (hl : ppuLogWf s.ppuLog) : ppuLogWf t.ppuLog := by
  cases he with
  | storeByte ea v f _ => exact memWrite_ppuLogWf ea v hl
  | pushByte v _ => exact memWrite_ppuLogWf _ v hl
  | call w pc _ => exact memWrite_ppuLogWf _ _ (memWrite_ppuLogWf (stackAddr s.sp) (hiByte w) hl)
  | _ => exact hl

/-- Only BRK ends a run from inside an instruction, and it does so by the halt (60_exceptions.md R120). -/
theorem exec_status (h : exec i s = .next t) :
    t.status = s.status ∨ i.opcode = 0x00#8 ∧ t.status = .halted := by
  by_cases hm : i.mnemonic = .brk
  · cases i with
    | brk =>
      cases h
      exact .inr ⟨rfl, rfl⟩
    | _ => cases hm
  · obtain ⟨-, -, -, -, -, hst, -⟩ := registersHaveOnlyTheirWriters i s t h
    exact .inl (hst hm)
end

/-- The instruction fetched for a row of the table has the row's opcode byte. -/
theorem fetchOperands_opcode {r : Row} (hr : r ∈ opcodeTable) (s : State) :
    (fetchOperands s r.shape).1.opcode = r.opcode := by
  rcases shape_of_mem hr with ⟨i, hs, hop, -⟩ | ⟨mk, hs, hmk⟩ | ⟨mk, hs, hmk⟩ <;> rw [hs]
  · exact hop
  · exact (hmk _).1
  · exact (hmk _).1

/-- What a step did, with the fetch behind it: it stopped on a byte with no row, or ran an instruction of the byte at
PC on the ticked state, PC moved (40_dispatch.md R63 to R66). -/
theorem step_exec_cases {s t : State} (h : step s = .next t) : s.status = .running ∧
    ((admittedRow s.candidates (memRead s s.pc) = none ∧
      t = appendTrace (memRead s s.pc) s.pc
        (raiseIllegalOpcode ((tick s).withPc (s.pc + 1#16)) (memRead s s.pc) s.pc)) ∨
    (∃ i pc u, i.opcode = memRead s s.pc ∧ exec i ((tick s).withPc pc) = .next u ∧
      t = appendTrace (memRead s s.pc) s.pc u)) := by
  obtain ⟨hs, hill | ⟨r, u, hr, hu, ht⟩⟩ := step_cases h
  · exact ⟨hs, .inl hill⟩
  · obtain ⟨hmem, hop, -⟩ := admittedRow_eq_some hr
    obtain ⟨pc, hpc⟩ := fetchOperands_snd ((tick s).withPc (s.pc + 1#16)) r.shape
    rw [hpc, withPc_withPc] at hu
    exact ⟨hs, .inr ⟨_, pc, u, (fetchOperands_opcode hmem _).trans hop, hu, ht⟩⟩

/-- Settles O46: reset and the fetch store nothing, and no bus write reaches the array behind the window. -/
theorem noTransactionStoresInThePpuWindow : Obligations.NoTransactionStoresInThePpuWindow := by
  intro s t c h
  cases c with
  | reset =>
    cases h
    exact ⟨rfl, fun _ _ _ => rfl⟩
  | step =>
    obtain ⟨-, ⟨-, rfl⟩ | ⟨i, pc, u, -, hu, rfl⟩⟩ := step_exec_cases h
    · exact ⟨rfl, fun _ _ _ => rfl⟩
    · obtain ⟨-, -, -, -, -, -, -, -, hcs⟩ := registersHaveOnlyTheirWriters i _ u hu
      exact ⟨hcs, fun b hlo hhi => effect_window (effect_of_exec hu) ((inPpuWindow_iff b).2 ⟨hlo, hhi⟩)⟩

/-- Settles O45, by induction on the transactions since the launch; O46 is the step. -/
theorem ppuWindowReadsWhatTheLoaderLeft : Obligations.PpuWindowReadsWhatTheLoaderLeft := by
  intro p s hr b hlo hhi
  induction hr with
  | launch => rfl
  | call s t c _ hc ih =>
    obtain ⟨-, hwin⟩ := noTransactionStoresInThePpuWindow s t c hc
    rw [hwin b hlo hhi, ih]

/-- A record numbered one past the counter continues the trace. -/
theorem traceWf_concat {k : Nat} {l : List TraceRecord} {r : TraceRecord} (hl : traceWf k l) (hr : r.icount = k + 1) :
    traceWf (k + 1) (l ++ [r]) := by
  obtain ⟨hlen, hnum⟩ := hl
  refine ⟨by simp [hlen], fun j r' hj => ?_⟩
  rw [List.getElem?_append, List.getElem?_singleton] at hj
  split at hj
  · exact hnum j r' hj
  · split at hj
    · cases hj
      omega
    · cases hj

theorem hostReset_inv {s : State} (h : s.Inv) : (hostReset s).Inv :=
  ⟨h.memory, h.candidates, h.ppuLog, h.trace, trivial⟩

/-- The record that ends a step restores the trace's clauses; the instruction before it keeps the others. -/
theorem step_inv {s t : State} (hs : s.Inv) (h : step s = .next t) : t.Inv := by
  obtain ⟨hmem, hcs, hppu, htr, -⟩ := hs
  obtain ⟨hrun, ⟨hrow, rfl⟩ | ⟨i, pc, u, hop, hu, rfl⟩⟩ := step_exec_cases h
  · exact ⟨hmem, hcs, hppu, traceWf_concat htr rfl, ⟨_, List.getLast?_concat, rfl, rfl⟩, hrow⟩
  · have he := effect_of_exec hu
    obtain ⟨-, -, -, -, -, -, hic, htl, hcs'⟩ := registersHaveOnlyTheirWriters i _ u hu
    refine ⟨effect_wf (t := u) he hmem, ?_, effect_ppuLogWf (t := u) he hppu, ?_, ?_⟩
    · rw [appendTrace_candidates, hcs']
      exact hcs
    · rw [appendTrace_icount, appendTrace_traceLog, hic, htl]
      exact traceWf_concat htr hic
    · rw [statusTraced, appendTrace_status]
      rcases exec_status hu with hst | ⟨hbrk, hst⟩ <;> rw [hst]
      · rw [State.withPc_status, tick_status, hrun]
        trivial
      · exact ⟨_, List.getLast?_concat, hop.symm.trans hbrk⟩

/-- Settles O51, a lemma for each transaction. -/
theorem transactionsKeepTheInvariant : Obligations.TransactionsKeepTheInvariant :=
  ⟨fun _ _ => step_inv, fun _ => hostReset_inv⟩

end Sys2Proof.Machine
end

section
/-! PROOFS. The statements about the encoding (30_encoding.md). First what the decoder reads after an opcode byte (R50 to
R52), then the row of an instruction and the two round trips, and last which bytes have a row (R53, R54). -/

namespace Sys2Proof

/-! ## What follows an opcode byte -/

/-- The shape `sh` makes the instruction `i` of the operand bytes `ops` (30_encoding.md R51, R52). -/
inductive Shape.Makes : (sh : Shape) → (ops : List Byte) → (i : Instr) → Prop
  | bare (i : Instr) : Makes (.bare i) [] i
  | byte (mk : Byte → Instr) (b : Byte) : Makes (.byte mk) [b] (mk b)
  | word (mk : Word → Instr) (w : Word) : Makes (.word mk) (wordBytes w) (mk w)

theorem decodeOperands_of_makes {sh : Shape} {ops : List Byte} {i : Instr} (h : sh.Makes ops i) (op : Byte)
    (rest : List Byte) : decodeOperands op sh (ops ++ rest) = .ok i rest := by
  cases h with
  | bare | byte => rfl
  | word mk w => simp [wordBytes, decodeOperands]

theorem makes_of_decodeOperands {op : Byte} {sh : Shape} {bytes rest : List Byte} {i : Instr}
    (h : decodeOperands op sh bytes = .ok i rest) : ∃ ops, sh.Makes ops i ∧ bytes = ops ++ rest := by
  unfold decodeOperands at h
  split at h <;> cases h
  case h_1 => exact ⟨[], .bare i, rfl⟩
  case h_2 mk b => exact ⟨[b], .byte mk b, rfl⟩
  case h_4 mk lo hi =>
    refine ⟨wordBytes (Machine.wordOf hi lo), .word mk _, ?_⟩
    rw [wordBytes_wordOf]
    rfl

/-- What a row of the table makes has the row's byte and tier, and its operand bytes are those it is made of. -/
theorem Shape.Makes.of_mem {r : Row} {ops : List Byte} {i : Instr} (h : r.shape.Makes ops i) (hr : r ∈ opcodeTable) :
    i.opcode = r.opcode ∧ i.tier = r.tier ∧ i.operandBytes = ops := by
  obtain ⟨j, hs, hj⟩ | ⟨mk, hs, hmk⟩ | ⟨mk, hs, hmk⟩ := shape_of_mem hr <;> rw [hs] at h <;> cases h
  · exact hj
  · exact hmk _
  · exact hmk _

/-! ## The round trips -/

/-- Each instruction's byte has a row, which makes the instruction of its operand bytes (30_encoding.md R53). -/
theorem findRow_opcode (i : Instr) : ∃ r, findRow i.opcode = some r ∧ r.shape.Makes i.operandBytes i := by
  cases i <;> exact ⟨_, rfl, by constructor⟩

theorem admits_eq_wf {r : Row} {i : Instr} (ho : i.opcode = r.opcode) (ht : i.tier = r.tier) (cs : List Byte) :
    admits cs r = i.wf cs := by
  rw [admits, Instr.wf, ho, ht]

/-- The row of an instruction's byte is admitted where the instruction is well-formed (30_encoding.md R53). -/
theorem admittedRow_opcode (cs : List Byte) (i : Instr) :
    ∃ r, r.shape.Makes i.operandBytes i ∧ admittedRow cs i.opcode = if i.wf cs then some r else none := by
  obtain ⟨r, hf, hm⟩ := findRow_opcode i
  obtain ⟨ho, ht, -⟩ := hm.of_mem (List.mem_of_find?_eq_some hf)
  exact ⟨r, hm, by simp only [admittedRow, hf, admits_eq_wf ho ht]⟩

theorem decode_of_admittedRow_none {cs : List Byte} {op : Byte} (h : admittedRow cs op = none) (rest : List Byte) :
    decode cs (op :: rest) = .error (.unmapped op) := by
  simp only [decode, h]

theorem decode_of_admittedRow_some {cs : List Byte} {op : Byte} {r : Row} (h : admittedRow cs op = some r)
    (rest : List Byte) : decode cs (op :: rest) = decodeOperands op r.shape rest := by
  simp only [decode, h]

/-- Settles O1, by the row of the instruction's byte: it makes the instruction, and is admitted or not. -/
theorem decodeOfEncodeGivesTheInstruction : Obligations.DecodeOfEncodeGivesTheInstruction := by
  intro cs i rest
  obtain ⟨r, hm, hr⟩ := admittedRow_opcode cs i
  constructor
  · intro hwf
    rw [if_pos hwf] at hr
    exact (decode_of_admittedRow_some hr _).trans (decodeOperands_of_makes hm _ rest)
  · intro hwf
    rw [hwf] at hr
    exact decode_of_admittedRow_none hr _

/-- Settles O2, by the row that the decoder used: it fixes the byte and the tier of what it makes. -/
theorem encodeOfDecodeGivesTheBytes : Obligations.EncodeOfDecodeGivesTheBytes := by
  rintro cs (_ | ⟨op, bytes⟩) rest i h
  · cases h
  · cases hr : admittedRow cs op with
    | none =>
      rw [decode_of_admittedRow_none hr] at h
      cases h
    | some r =>
      rw [decode_of_admittedRow_some hr] at h
      obtain ⟨ops, hm, rfl⟩ := makes_of_decodeOperands h
      obtain ⟨hmem, rfl, hadm⟩ := admittedRow_eq_some hr
      obtain ⟨ho, ht, rfl⟩ := hm.of_mem hmem
      exact ⟨by rw [encode, ho]; rfl, (admits_eq_wf ho ht cs).symm.trans hadm⟩

/-! ## The admitted table -/

/-- The bytes of the rows of a tier (30_encoding.md R53). -/
def tierBytes (t : Tier) : List Byte := (opcodeTable.filter (·.tier == t)).map Row.opcode

theorem candidateBytes_eq_tierBytes : candidateBytes = tierBytes .candidate := rfl

theorem mem_tierBytes {op : Byte} {t : Tier} : op ∈ tierBytes t ↔ ∃ r ∈ opcodeTable, r.tier = t ∧ r.opcode = op := by
  simp [tierBytes, and_assoc]

theorem opcodeTable_opcodes_nodup : (opcodeTable.map Row.opcode).Nodup := by decide

/-- No byte has two rows, so the lookup of a row's byte finds that row. -/
theorem findRow_of_mem {r : Row} (hr : r ∈ opcodeTable) : findRow r.opcode = some r := by
  cases hf : findRow r.opcode with
  | none => exact absurd (List.find?_eq_none.mp hf r hr) (by simp)
  | some r' =>
    have ho : r'.opcode = r.opcode := by simpa using List.find?_some hf
    rw [List.inj_on_of_nodup_map opcodeTable_opcodes_nodup (List.mem_of_find?_eq_some hf) hr ho]

theorem admittedRow_isSome_iff {cs : List Byte} {op : Byte} :
    (admittedRow cs op).isSome = true ↔ ∃ r ∈ opcodeTable, r.opcode = op ∧ admits cs r = true := by
  constructor
  · intro h
    obtain ⟨r, hr⟩ := Option.isSome_iff_exists.mp h
    exact ⟨r, admittedRow_eq_some hr⟩
  · rintro ⟨r, hr, rfl, hadm⟩
    simp [admittedRow, findRow_of_mem hr, hadm]

theorem admits_iff {cs : List Byte} {r : Row} :
    admits cs r = true ↔ r.tier = .attested ∨ r.opcode ∈ cs ∧ r.tier = .candidate := by
  cases ht : r.tier <;> simp [admits, ht]

/-- A byte has a row where it is attested, or a candidate that CANDIDATE_OPCODES holds (30_encoding.md R53). -/
theorem admittedRow_isSome_iff_mem (cs : List Byte) (op : Byte) :
    (admittedRow cs op).isSome = true ↔ op ∈ tierBytes .attested ∨ (op ∈ cs ∧ op ∈ candidateBytes) := by
  rw [candidateBytes_eq_tierBytes, admittedRow_isSome_iff, mem_tierBytes, mem_tierBytes]
  constructor
  · rintro ⟨r, hr, rfl, hadm⟩
    obtain ht | ⟨hcs, ht⟩ := admits_iff.mp hadm
    · exact .inl ⟨r, hr, ht, rfl⟩
    · exact .inr ⟨hcs, r, hr, ht, rfl⟩
  · rintro (⟨r, hr, ht, rfl⟩ | ⟨hcs, r, hr, ht, rfl⟩)
    · exact ⟨r, hr, rfl, admits_iff.mpr (.inl ht)⟩
    · exact ⟨r, hr, rfl, admits_iff.mpr (.inr ⟨hcs, ht⟩)⟩

/-- Settles O3: the two lists are the bytes of the table's attested and of its candidate rows. -/
theorem admittedTableIsAttestedPlusAdmittedCandidates : Obligations.AdmittedTableIsAttestedPlusAdmittedCandidates :=
  fun cs op => ⟨admittedRow_isSome_iff_mem cs op, decode_of_admittedRow_none, rfl⟩

end Sys2Proof
end

section
/-! PROOFS. The statements about the dispatch (40_dispatch.md) and LDA, which goes through its operand forms. First the
step (R63 to R66), then the effective addresses (R68 to R71), the bytes of an instruction, and LDA (R75, R80). -/

namespace Sys2Proof.Machine

/-! ## The step -/

/-- The decoder reads a byte as the opcode of the instruction it finds there (30_encoding.md R50). -/
theorem opcode_of_decode {cs : List Byte} {op : Byte} {bytes rest : List Byte} {i : Instr}
    (h : decode cs (op :: bytes) = .ok i rest) : i.opcode = op := by
  obtain ⟨hbytes, -⟩ := encodeOfDecodeGivesTheBytes cs _ rest i h
  exact (List.cons.inj hbytes).1.symm

/-- Settles O6: the step is the meaning that the fetch found, and the byte in its trace record is the opcode. -/
theorem stepRunsTheDecodedInstruction : Obligations.StepRunsTheDecodedInstruction := by
  intro s i rest hs hd
  obtain ⟨t, ht⟩ := exec_next i ((tick s).withPc (s.pc + BitVec.ofNat 16 i.length))
  have hstep : step s = .next (appendTrace i.opcode s.pc t) := by
    rw [step_of_decode hs hd, ht, opcode_of_decode hd, endStep]
  exact ⟨t, ht, hstep⟩

/-- Settles O7, by the branch of the step for a byte with no row. -/
theorem unmappedByteFaultsTheBlock : Obligations.UnmappedByteFaultsTheBlock := by
  intro s hs hrow
  have hstep : step s = .next (appendTrace (memRead s s.pc) s.pc
      (raiseIllegalOpcode ((tick s).withPc (s.pc + 1#16)) (memRead s s.pc) s.pc)) := by
    rw [step_running hs, hrow]
  exact ⟨_, hstep, rfl, rfl, BitVec.toNat_add s.pc 1#16, rfl, fun _ => rfl⟩

/-- Settles O10: the tick is in the state that the instruction runs on, and no instruction writes the counter. -/
theorem everyStepTicksTheCounterOnce : Obligations.EveryStepTicksTheCounterOnce := by
  intro s t h
  obtain ⟨-, ⟨-, rfl⟩ | ⟨i, pc, u, -, hu, rfl⟩⟩ := step_exec_cases h
  · rfl
  · obtain ⟨-, -, -, -, -, -, hic, -⟩ := registersHaveOnlyTheirWriters i _ u hu
    exact hic

/-! ## The effective addresses -/

/-- The zero-page index wraps at 8 bits before the address is extended (40_dispatch.md R69). -/
theorem zext16_add (z x : Byte) : zext16 (z + x) = BitVec.ofNat 16 ((z.toNat + x.toNat) % 256) :=
  congrArg (BitVec.ofNat 16) (BitVec.toNat_add z x)

/-- Settles O16: the zero-page index is added at 8 bits and the absolute one at 16. -/
theorem addressingModesGiveTheEffectiveAddress : Obligations.AddressingModesGiveTheEffectiveAddress := by
  intro s z addr
  refine ⟨⟨_, rfl, zext16_toNat z⟩, ⟨_, rfl, ?_⟩, ⟨_, rfl, rfl⟩, ⟨_, rfl, ?_⟩⟩
  · exact (zext16_toNat (z + s.x)).trans (BitVec.toNat_add z s.x)
  · rw [BitVec.toNat_add, zext16_toNat]

/-! ## The bytes of an instruction -/

/-- Where every candidate is admitted, every instruction is one of the admitted table (30_encoding.md R53). -/
theorem wf_candidateBytes (i : Instr) : i.wf candidateBytes = true := by
  obtain ⟨r, hf, hm⟩ := findRow_opcode i
  have hmem := List.mem_of_find?_eq_some hf
  obtain ⟨ho, ht, -⟩ := hm.of_mem hmem
  rw [← admits_eq_wf ho ht, admits_iff]
  cases htier : r.tier with
  | attested => exact .inl rfl
  | candidate => exact .inr ⟨mem_tierBytes.mpr ⟨r, hmem, htier, rfl⟩, rfl⟩

/-- An instruction's own bytes and tier meet the claim about its encoding, by the round trip. -/
theorem encoded_encode (i : Instr) : Encoded i i.tier (encode i) := by
  have hdec := (decodeOfEncodeGivesTheInstruction candidateBytes i []).1 (wf_candidateBytes i)
  rw [List.append_nil] at hdec
  exact ⟨rfl, rfl, hdec⟩

/-! ## LDA -/

/-- An instruction that puts `v` in A and then does SetZN changes A, Z and N alone. -/
theorem exec_setA_setZN {i : Instr} {s : State} {v : Byte} (h : exec i s = .next (setZN (s.withA v) v)) :
    ∃ t, exec i s = .next t ∧ t.a = v ∧ ZNof t.flags v ∧
      t = { s with a := t.a, flags := { s.flags with z := t.flags.z, n := t.flags.n } } ∧ SameMemory s t :=
  ⟨_, h, rfl, ZNof_setZN s.flags v, rfl, fun _ => rfl⟩

/-- Settles O17: each form loads the byte its mode names, and the indexed one wraps in the zero page. -/
theorem ldaLoadsItsOperand : Obligations.LdaLoadsItsOperand := by
  refine ⟨fun v => encoded_encode (.ldaImm v), fun z => encoded_encode (.ldaZpx z), fun z => encoded_encode (.ldaZp z),
    fun addr => encoded_encode (.ldaAbs addr), ⟨?_, ?_, ?_⟩, ?_⟩
  · exact fun v s => exec_setA_setZN rfl
  · exact fun z s => exec_setA_setZN rfl
  · exact fun addr s => exec_setA_setZN rfl
  · intro s z
    have hexec : exec (.ldaZpx z) s = .next (opLda s (.place (resolveZpx s z))) := rfl
    obtain ⟨t, ht, ha, hzn, hframe, hmem⟩ := exec_setA_setZN hexec
    rw [← zext16_add]
    exact ⟨t, ht, ha, ha ▸ hzn, hframe, hmem⟩

end Sys2Proof.Machine
end

section
/-! PROOFS. The statement about STA (41_load_store.md R81). Each form is the bus write of A at the address its mode
names, so where the byte goes is the bus's own law (20_memory.md R31 to R33). -/

namespace Sys2Proof.Machine

/-- An STA whose mode resolves to a cell is the bus write of A at it (41_load_store.md R81). -/
theorem opSta_eq_memWrite {s : State} {p : Place} {ea : Word} (h : p = .mem ea) : opSta s p = memWrite s ea s.a := by
  subst h
  rfl

/-- Settles O18: each form is one bus write of A at its mode's address, and O14 says where that write goes. -/
theorem staStoresOrWritesThePpu : Obligations.StaStoresOrWritesThePpu := by
  refine ⟨fun addr => encoded_encode (.staAbs addr), fun addr => encoded_encode (.staAbsx addr),
    fun z => encoded_encode (.staZp z), fun s i ea hw hi => ?_⟩
  have hexec : exec i s = .next (memWrite s ea s.a) := by
    rcases hi with ⟨z, rfl, hea⟩ | ⟨addr, rfl, hea⟩ | ⟨addr, rfl, hea⟩ <;>
      exact congrArg Host.Outcome.next (opSta_eq_memWrite hea)
  exact ⟨memWrite s ea s.a, hexec, busWriteStoresOrRedirects s ea s.a hw⟩

end Sys2Proof.Machine
end

section
/-! PROOFS. The statements about ADC and SBC (42_arithmetic.md). SBC of a byte is ADC of its complement (R117), so what
is said of SBC's overflow follows from what is said of ADC's. -/

namespace Sys2Proof.Machine

/-! ## The operand forms -/

/-- What holds of one operation on any operand that is loaded holds of its immediate, zero-page and absolute forms
(40_dispatch.md R75). -/
theorem readForms_of_op {imm zp : Byte → Instr} {abs : Word → Instr} {op : State → Opnd → State}
    {P : Instr → (State → Byte) → Prop} (himm : ∀ v s, exec (imm v) s = .next (op s (.imm v)))
    (hzp : ∀ z s, exec (zp z) s = .next (op s (.place (resolveZp z))))
    (habs : ∀ addr s, exec (abs addr) s = .next (op s (.place (resolveAbs addr))))
    (hop : ∀ i o, (∀ s, exec i s = .next (op s o)) → P i (load · o)) : ReadForms imm zp abs P :=
  ⟨fun v => hop _ _ (himm v), fun z => hop _ _ (hzp z), fun addr => hop _ _ (habs addr)⟩

/-! ## ADC -/

/-- The mask 0x80 keeps the sign bit alone. -/
theorem and_0x80_ne_zero (b : Byte) : (b &&& 0x80#8 != 0#8) = b.msb := by
  have htwo : 0x80#8 = BitVec.twoPow 8 7 := rfl
  have hmsb : b.msb = b.getLsbD 7 := rfl
  rw [htwo, BitVec.and_twoPow, hmsb]
  cases b.getLsbD 7 <;> rfl

/-- ADC overflows where the operands have one sign and the result has the other (42_arithmetic.md R82). -/
theorem adcOverflow_iff_msb (a m : Byte) (c : Bool) :
    adcOverflow a m c = true ↔ a.msb = m.msb ∧ (adcResult a m c).msb ≠ a.msb := by
  rw [adcOverflow, and_0x80_ne_zero, BitVec.msb_and, BitVec.msb_not, BitVec.msb_xor, BitVec.msb_xor]
  cases a.msb <;> cases m.msb <;> simp

/-- ADC overflows where the signed sum does not fit in a byte (42_arithmetic.md R82). -/
theorem adcOverflow_iff_toInt (a m : Byte) (c : Bool) : adcOverflow a m c = true ↔
    a.toInt + m.toInt + (bitNat c : Int) < -128 ∨ 127 < a.toInt + m.toInt + (bitNat c : Int) := by
  have hr := adcResult_toNat a m c
  have hc := bitNat_le_one c
  have ha := a.isLt
  have hm := m.isLt
  simp only [adcOverflow_iff_msb, BitVec.msb_eq_decide, BitVec.toInt_eq_toNat_cond, hr, ne_eq, decide_eq_decide]
  omega

/-- Settles O19: each form is ADC of the byte it loads, and the flags are the laws of the sum. -/
theorem adcAddsWithCarry : Obligations.AdcAddsWithCarry := by
  refine ⟨fun v => encoded_encode (.adcImm v), fun z => encoded_encode (.adcZp z),
    fun addr => encoded_encode (.adcAbs addr),
    readForms_of_op (op := opAdc) (fun _ _ => rfl) (fun _ _ => rfl) (fun _ _ => rfl) fun i o hexec s => ?_⟩
  exact ⟨opAdc s o, hexec s, adcResult_toNat s.a (load s o) s.flags.c, adcCarry_iff s.a (load s o) s.flags.c,
    adcOverflow_iff_msb s.a (load s o) s.flags.c, adcOverflow_iff_toInt s.a (load s o) s.flags.c, ZNof_setZN _ _, rfl,
    fun _ => rfl⟩

/-! ## SBC as ADC of the complement -/

theorem sbcResult_eq_adcResult_not (a m : Byte) (c : Bool) : sbcResult a m c = adcResult a (~~~m) c := by
  apply BitVec.eq_of_toNat_eq
  have hs := sbcResult_toNat a m c
  have ha := adcResult_toNat a (~~~m) c
  have hm := m.isLt
  rw [BitVec.toNat_not] at ha
  omega

theorem sbcCarry_eq_adcCarry_not (a m : Byte) (c : Bool) : sbcCarry a m c = adcCarry a (~~~m) c := by
  have hm := m.isLt
  rw [Bool.eq_iff_iff, sbcCarry_iff, adcCarry_iff, BitVec.toNat_not]
  omega

theorem sbcOverflow_eq_adcOverflow_not (a m : Byte) (c : Bool) : sbcOverflow a m c = adcOverflow a (~~~m) c := by
  rw [sbcOverflow, adcOverflow, sbcResult_eq_adcResult_not, BitVec.not_xor_right, BitVec.not_not,
    BitVec.and_comm (a ^^^ m)]

theorem afterSbc_eq_afterAdc_not (f : Flags) (a m : Byte) : f.afterSbc a m = f.afterAdc a (~~~m) := by
  rw [Flags.afterSbc, sbcResult_eq_adcResult_not, sbcCarry_eq_adcCarry_not, sbcOverflow_eq_adcOverflow_not]
  rfl

/-- Settles O21: the result and every flag of SBC are those of ADC of the complement. -/
theorem sbcIsAdcOfTheComplement : Obligations.SbcIsAdcOfTheComplement := by
  intro s m
  have hop : opSbc s (.imm m) = opAdc s (.imm (~~~m)) := by
    simp only [opSbc, opAdc, load, sbcResult_eq_adcResult_not, afterSbc_eq_afterAdc_not]
  have hnot : m ^^^ 0xFF#8 = ~~~m := BitVec.xor_allOnes
  rw [hnot]
  exact congrArg Host.Outcome.next hop

/-! ## SBC -/

theorem toInt_complement (m : Byte) : (~~~m).toInt = -m.toInt - 1 := by
  have hm := m.isLt
  rw [BitVec.toInt_eq_toNat_cond, BitVec.toInt_eq_toNat_cond, BitVec.toNat_not]
  omega

/-- SBC overflows where the operands differ in sign and the result's sign is not A's (42_arithmetic.md R83). -/
theorem sbcOverflow_iff_msb (a m : Byte) (c : Bool) :
    sbcOverflow a m c = true ↔ a.msb ≠ m.msb ∧ (sbcResult a m c).msb ≠ a.msb := by
  rw [sbcOverflow_eq_adcOverflow_not, adcOverflow_iff_msb, sbcResult_eq_adcResult_not, BitVec.msb_not]
  simp only [Nat.ofNat_pos, decide_true, Bool.true_and, Bool.eq_not]

/-- SBC overflows where the signed difference does not fit in a byte (42_arithmetic.md R83). -/
theorem sbcOverflow_iff_toInt (a m : Byte) (c : Bool) : sbcOverflow a m c = true ↔
    a.toInt - m.toInt - (1 - (bitNat c : Int)) < -128 ∨ 127 < a.toInt - m.toInt - (1 - (bitNat c : Int)) := by
  rw [sbcOverflow_eq_adcOverflow_not, adcOverflow_iff_toInt, toInt_complement]
  omega

/-- Settles O20: each form is SBC of the byte it loads, and the flags are the laws of the difference. -/
theorem sbcSubtractsWithBorrow : Obligations.SbcSubtractsWithBorrow := by
  refine ⟨fun v => encoded_encode (.sbcImm v), fun z => encoded_encode (.sbcZp z),
    fun addr => encoded_encode (.sbcAbs addr),
    readForms_of_op (op := opSbc) (fun _ _ => rfl) (fun _ _ => rfl) (fun _ _ => rfl) fun i o hexec s => ?_⟩
  exact ⟨opSbc s o, hexec s, sbcResult_toNat s.a (load s o) s.flags.c, sbcCarry_iff s.a (load s o) s.flags.c,
    sbcOverflow_iff_msb s.a (load s o) s.flags.c, sbcOverflow_iff_toInt s.a (load s o) s.flags.c, ZNof_setZN _ _, rfl,
    fun _ => rfl⟩

end Sys2Proof.Machine
end

section
/-! PROOFS. The statements about AND, ORA, EOR and CMP (43_logic_compare.md). The three logic operations put one byte in
A and do SetZN of it, as LDA does; they differ in the connective their bits are combined by. -/

namespace Sys2Proof.Machine

/-! ## AND, ORA and EOR -/

/-- An instruction that puts in A the byte whose bits are those of A and `m` combined by `g`, and then does SetZN, changes
A, Z and N alone (43_logic_compare.md R84 to R86). -/
theorem exec_combineBits_setZN {i : Instr} {s : State} {v m : Byte} {g : Bool → Bool → Bool}
    (hbits : ∀ k, v.getLsbD k = g (s.a.getLsbD k) (m.getLsbD k)) (h : exec i s = .next (setZN (s.withA v) v)) :
    ∃ t, exec i s = .next t ∧ (∀ k, t.a.getLsbD k = g (s.a.getLsbD k) (m.getLsbD k)) ∧ ZNof t.flags t.a ∧
      t = { s with a := t.a, flags := { s.flags with z := t.flags.z, n := t.flags.n } } ∧ SameMemory s t := by
  obtain ⟨t, ht, rfl, hrest⟩ := exec_setA_setZN h
  exact ⟨t, ht, hbits, hrest⟩

/-- Settles O22: each form combines A with the byte it loads, by the connective of its mnemonic. -/
theorem logicCombinesBitByBit : Obligations.LogicCombinesBitByBit := by
  refine ⟨fun v => encoded_encode (.andImm v), fun z => encoded_encode (.andZp z),
    fun addr => encoded_encode (.andAbs addr), fun v => encoded_encode (.oraImm v), fun z => encoded_encode (.oraZp z),
    fun addr => encoded_encode (.oraAbs addr), fun v => encoded_encode (.eorImm v), fun z => encoded_encode (.eorZp z),
    fun addr => encoded_encode (.eorAbs addr), ?_, ?_, ?_⟩
  · exact readForms_of_op (op := opAnd) (fun _ _ => rfl) (fun _ _ => rfl) (fun _ _ => rfl) fun _ _ hexec s =>
      exec_combineBits_setZN (g := and) (fun _ => BitVec.getLsbD_and) (hexec s)
  · exact readForms_of_op (op := opOra) (fun _ _ => rfl) (fun _ _ => rfl) (fun _ _ => rfl) fun _ _ hexec s =>
      exec_combineBits_setZN (g := or) (fun _ => BitVec.getLsbD_or) (hexec s)
  · exact readForms_of_op (op := opEor) (fun _ _ => rfl) (fun _ _ => rfl) (fun _ _ => rfl) fun _ _ hexec s =>
      exec_combineBits_setZN (g := xor) (fun _ => BitVec.getLsbD_xor) (hexec s)

/-! ## CMP -/

/-- The truncated difference is zero exactly when the bytes are equal. -/
theorem afterCmp_z_iff (f : Flags) (a m : Byte) : (f.afterCmp a m).z = true ↔ a = m := by
  rw [Flags.afterCmp, Flags.setZN_z, beq_iff_eq, BitVec.sub_eq_iff_eq_add, BitVec.zero_add]

/-- N after CMP is bit 7 of the difference modulo 256 (43_logic_compare.md R87). -/
theorem afterCmp_n_iff (f : Flags) (a m : Byte) :
    (f.afterCmp a m).n = true ↔ 128 ≤ (a.toNat + 256 - m.toNat) % 256 := by
  have hsub : (a - m).toNat = (a.toNat + 256 - m.toNat) % 256 := by
    have hm := m.isLt
    rw [BitVec.toNat_sub]
    omega
  rw [Flags.afterCmp, Flags.setZN_n, bit7_iff, hsub]

/-- Settles O23: each form compares A with the byte it loads, and writes the flags alone. -/
theorem cmpComparesUnsigned : Obligations.CmpComparesUnsigned := by
  refine ⟨fun v => encoded_encode (.cmpImm v), fun z => encoded_encode (.cmpZp z),
    fun addr => encoded_encode (.cmpAbs addr),
    readForms_of_op (op := opCmp) (fun _ _ => rfl) (fun _ _ => rfl) (fun _ _ => rfl) fun i o hexec s => ?_⟩
  exact ⟨opCmp s o, hexec s, decide_eq_true_iff, afterCmp_z_iff s.flags s.a (load s o),
    afterCmp_n_iff s.flags s.a (load s o), rfl, fun _ => rfl⟩

end Sys2Proof.Machine
end

section
/-! PROOFS. The statement about BNE, BEQ and BPL (44_branch.md). The three are one write of PC and differ in the flag they
test alone. -/

namespace Sys2Proof.Machine

/-- `sext_8` is the two's complement value of the byte. -/
theorem sext8_eq_toInt (b : Byte) : sext8 b = b.toInt := by
  rw [sext8, BitVec.toInt_eq_toNat_cond]
  split <;> split <;> omega

/-- The target is PC plus the signed offset, modulo 65536 (40_dispatch.md R74). -/
theorem branchTarget_toNat (pc : Word) (off : Byte) :
    ((branchTarget pc off).toNat : Int) = ((pc.toNat : Int) + off.toInt) % 65536 := by
  have hnonneg : 0 ≤ ((pc.toNat : Int) + off.toInt) % 65536 := Int.emod_nonneg _ (by decide)
  rw [branchTarget, sext8_eq_toInt, BitVec.toNat_ofInt]
  exact Int.toNat_of_nonneg hnonneg

/-- A branch reaches its target when its condition holds, leaves PC when it does not, and writes PC alone. -/
theorem opBranch_spec (s : State) {c : Bool} {taken : Prop} (off : Byte) (hc : taken ↔ c = true) :
    (taken → ((opBranch s c off).pc.toNat : Int) = ((s.pc.toNat : Int) + off.toInt) % 65536) ∧
      (¬taken → (opBranch s c off).pc = s.pc) ∧ opBranch s c off = { s with pc := (opBranch s c off).pc } ∧
      SameMemory s (opBranch s c off) := by
  rw [opBranch_eq_withPc, hc]
  refine ⟨fun h => ?_, fun h => ?_, rfl, fun b => memRead_withPc s _ b⟩
  · rw [if_pos h]
    exact branchTarget_toNat s.pc off
  · rw [if_neg h]
    rfl

/-- Settles O24: each form is a branch on its own flag. -/
theorem branchesAddTheOffsetWhenTaken : Obligations.BranchesAddTheOffsetWhenTaken := by
  refine ⟨fun off => encoded_encode (.bne off), fun off => encoded_encode (.beq off),
    fun off => encoded_encode (.bpl off), fun s off i taken hi => ?_⟩
  rcases hi with ⟨rfl, hz⟩ | ⟨rfl, hz⟩ | ⟨rfl, hn⟩
  · exact ⟨_, rfl, opBranch_spec s off (by rw [hz, Bool.not_eq_true'])⟩
  · exact ⟨_, rfl, opBranch_spec s off hz⟩
  · exact ⟨_, rfl, opBranch_spec s off (by rw [hn, Bool.not_eq_true'])⟩

end Sys2Proof.Machine
end

section
/-! PROOFS. The statements about RTS and JMP (45_control.md). JSR's own is settled above, with the stack's laws. -/

namespace Sys2Proof.Machine

/-- A pulled word is the cell one above SP and, as the high byte, the cell two above, wrapping in page 1
(20_memory.md R39). -/
theorem pullWord_fst_toNat (s : State) : (pullWord s).1.toNat =
    (memRead s (BitVec.ofNat 16 (0x100 + (s.sp.toNat + 2) % 256))).toNat * 256 +
      (memRead s (BitVec.ofNat 16 (0x100 + (s.sp.toNat + 1) % 256))).toNat := by
  have hlo : stackAddr (s.sp + 1#8) = BitVec.ofNat 16 (0x100 + (s.sp.toNat + 1) % 256) := stackAddr_add s.sp 1
  have hhi : stackAddr (s.sp + 1#8 + 1#8) = BitVec.ofNat 16 (0x100 + (s.sp.toNat + 2) % 256) := by
    rw [BitVec.add_assoc]
    exact stackAddr_add s.sp 2
  rw [pullWord_fst, wordOf_toNat, hlo, hhi]

theorem pullWord_snd_sp_toNat (s : State) : (pullWord s).2.sp.toNat = (s.sp.toNat + 2) % 256 := by
  rw [pullWord_snd, State.withSp_sp, BitVec.add_assoc, BitVec.toNat_add]
  rfl

/-- The stack does not depend on PC. -/
theorem pullWord_withPc (s : State) (pc : Word) :
    pullWord (s.withPc pc) = ((pullWord s).1, (pullWord s).2.withPc pc) := rfl

/-- Settles O27: RTS pulls the word `PC - 1` that JSR pushed, and SP with it, and adds the 1 back. -/
theorem rtsUndoesJsr : Obligations.RtsUndoesJsr := by
  intro s addr hw
  refine ⟨(pushWord s (s.pc - 1#16)).withPc addr, _, rfl, rfl, ?_⟩
  rw [pullWord_withPc, pullWord_pushWord _ hw, BitVec.sub_add_cancel]
  rfl

/-- Settles O26: RTS is the pull of a word, with the value and the SP of the stack's laws, and a write of PC. -/
theorem rtsPullsThePcAndAddsOne : Obligations.RtsPullsThePcAndAddsOne := by
  refine ⟨encoded_encode .rts, fun s => ?_⟩
  refine ⟨(pullWord s).2.withPc ((pullWord s).1 + 1#16), rfl, ?_, pullWord_snd_sp_toNat s, rfl, fun _ => rfl⟩
  rw [State.withPc_pc, BitVec.toNat_add, pullWord_fst_toNat]
  rfl

/-- Settles O28: JMP is a write of PC. -/
theorem jmpSetsPc : Obligations.JmpSetsPc :=
  ⟨fun addr => encoded_encode (.jmp addr), fun s addr => ⟨s.withPc addr, rfl, rfl, memRead_withPc s addr⟩⟩

end Sys2Proof.Machine
end

section
/-! PROOFS. The statements about the stack instructions and the register transfers (46_stack_transfer.md). The stack's
own laws (20_memory.md R36, R37) say what a push stores and a pull reads; what is added is the byte that PHP pushes. -/

namespace Sys2Proof.Machine

/-! ## A byte on the stack -/

/-- `Push(v)` stores at the cell SP names, decrements SP modulo 256 and changes nothing else (20_memory.md R36). -/
theorem push_spec {s : State} (v : Byte) (hw : Memory.wf s.mem = true) :
    (push s v).sp.toNat = (s.sp.toNat + 255) % 256 ∧ StoredOnly s (push s v) (stackAddr s.sp) v ∧
      push s v = { s with sp := (push s v).sp, mem := (push s v).mem } := by
  obtain ⟨⟨-, hstored, hsp, hframe⟩, -⟩ := stackPrimitivesPushAndPull s v 0x0000#16 hw
  exact ⟨hsp, hstored, hframe⟩

/-- A pulled byte is the cell one above SP, wrapping in page 1, whatever the memory's form (20_memory.md R37). -/
theorem pull_fst_eq_memRead (s : State) :
    (pull s).1 = memRead s (BitVec.ofNat 16 (0x100 + (s.sp.toNat + 1) % 256)) := by
  have hcell : stackAddr (s.sp + 1#8) = BitVec.ofNat 16 (0x100 + (s.sp.toNat + 1) % 256) := stackAddr_add s.sp 1
  rw [pull_fst, hcell]

theorem pull_snd_sp_toNat (s : State) : (pull s).2.sp.toNat = (s.sp.toNat + 1) % 256 := BitVec.toNat_add s.sp 1#8

/-- `Pull` after `Push(v)` returns `v` and restores SP (20_memory.md R37). -/
theorem pull_push {s : State} (v : Byte) (hw : Memory.wf s.mem = true) :
    pull (push s v) = (v, { s with mem := (push s v).mem }) := by
  obtain ⟨-, ⟨hcell, -⟩, hframe⟩ := push_spec v hw
  have hsp : (push s v).sp + 1#8 = s.sp := by rw [push_sp, BitVec.sub_add_cancel]
  apply Prod.ext
  · rw [pull_fst, hsp, hcell]
  · rw [pull_snd, hsp, hframe]
    rfl

/-! ## PHP and PLP -/

/-- The mask 0x10 is the bit of B (10_state.md R19). -/
theorem unpack_or_0x10 (b : Byte) : unpack (b ||| 0x10#8) = { unpack b with b := true } := by
  simp [unpack]

/-- The byte that PHP pushes is the packed status of the flags with B set (46_stack_transfer.md R97). -/
theorem pack_or_0x10 (f : Flags) : pack f ||| 0x10#8 = pack { f with b := true } := by
  have hbit5 : pack f ||| 0x20#8 = pack f := by rw [← pack_unpack, unpack_pack]
  calc pack f ||| 0x10#8 = pack f ||| 0x20#8 ||| 0x10#8 := by rw [hbit5]
    _ = pack f ||| 0x10#8 ||| 0x20#8 := by rw [BitVec.or_assoc, BitVec.or_comm 0x20#8, ← BitVec.or_assoc]
    _ = pack (unpack (pack f ||| 0x10#8)) := (pack_unpack _).symm
    _ = pack { f with b := true } := by rw [unpack_or_0x10, unpack_pack]

theorem exec_php (s : State) : exec .php s = .next (push s (pack { s.flags with b := true })) := by
  rw [← pack_or_0x10]
  rfl

/-- PLA and PLP, run where the pull gives `v` and leaves `u` (46_stack_transfer.md R96, R98). -/
theorem exec_pla_of_pull {s u : State} {v : Byte} (h : pull s = (v, u)) :
    exec .pla s = .next (setZN (u.withA v) v) := by
  simp [exec, execPla, h]

theorem exec_plp_of_pull {s u : State} {v : Byte} (h : pull s = (v, u)) :
    exec .plp s = .next (u.withFlags (unpack v)) := by
  simp [exec, execPlp, h]

/-- Settles O32: the pull gives back the pushed byte, and unpacking what PHP packed gives the flags with B set. -/
theorem pullsUndoPushes : Obligations.PullsUndoPushes := by
  intro s hw
  constructor
  · exact ⟨_, _, rfl, exec_pla_of_pull (pull_push s.a hw), ZNof_setZN s.flags s.a, rfl⟩
  · refine ⟨_, _, exec_php s, exec_plp_of_pull (pull_push _ hw), ?_⟩
    rw [unpack_pack]
    rfl

/-- Settles O30: both are a push, of A and of the packed status with B set. -/
theorem pushesStoreAtSpAndDecrement : Obligations.PushesStoreAtSpAndDecrement := by
  refine ⟨encoded_encode .pha, encoded_encode .php, fun s hw => ⟨stackAddr_toNat s.sp, ?_, ?_⟩⟩
  · exact ⟨_, rfl, push_spec s.a hw⟩
  · obtain ⟨hsp, hstored, hframe⟩ := push_spec (pack { s.flags with b := true }) hw
    exact ⟨_, _, exec_php s, hsp, hstored, hframe, getLsbD_pack { s.flags with b := true }⟩

/-- Settles O31: both are a pull, of a byte that goes to A with SetZN or is unpacked into the flags. -/
theorem pullsIncrementSpAndRead : Obligations.PullsIncrementSpAndRead := by
  refine ⟨encoded_encode .pla, encoded_encode .plp, fun s v hv => ?_⟩
  have hpull : pull s = (v, (pull s).2) := Prod.ext ((pull_fst_eq_memRead s).trans hv.symm) rfl
  constructor
  · exact ⟨_, exec_pla_of_pull hpull, rfl, ZNof_setZN s.flags v, pull_snd_sp_toNat s, rfl, fun _ => rfl⟩
  · exact ⟨_, exec_plp_of_pull hpull, pull_snd_sp_toNat s, rfl, fun _ => rfl, rfl, rfl, rfl, rfl, rfl, rfl, rfl⟩

/-! ## The transfers -/

/-- Settles O33: TXA, TYA, TAX and TAY are a write of one register and SetZN of what it holds; TXS is a write of SP. -/
theorem transfersCopyARegister : Obligations.TransfersCopyARegister := by
  refine ⟨encoded_encode .txa, encoded_encode .tya, encoded_encode .tax, encoded_encode .tay, encoded_encode .txs,
    fun s => ⟨?_, ?_, ?_, ?_, ?_⟩⟩
  · exact ⟨_, rfl, ZNof_setZN s.flags s.x, rfl, fun _ => rfl⟩
  · exact ⟨_, rfl, ZNof_setZN s.flags s.y, rfl, fun _ => rfl⟩
  · exact ⟨_, rfl, ZNof_setZN s.flags s.a, rfl, fun _ => rfl⟩
  · exact ⟨_, rfl, ZNof_setZN s.flags s.a, rfl, fun _ => rfl⟩
  · exact ⟨_, rfl, rfl, fun _ => rfl⟩

end Sys2Proof.Machine
end

section
/-! PROOFS. The statements about the shifts, the rotates, INC and DEC (47_shift_incdec.md). ASL, LSR, ROL and ROR are one
operation, with the bit that leaves and the result byte as its parameters; all six end in a store with SetZN. -/

namespace Sys2Proof.Machine

/-! ## The store that ends each of them -/

/-- A store at a zero-page address and a write of the flags change one cell and the flags alone: the zero page does not
meet the PPU window, so O14 gives the store. -/
theorem memWrite_withFlags_spec {s : State} {z : Byte} {ea : Word} (r : Byte) (f : Flags) (hw : Memory.wf s.mem = true)
    (hea : resolveZp z = .mem ea) :
    StoredOnly s ((memWrite s ea r).withFlags f) ea r ∧
      (memWrite s ea r).withFlags f = { s with mem := (memWrite s ea r).mem, flags := f } := by
  obtain rfl : zext16 z = ea := Place.mem.inj hea
  have hbelow : (zext16 z).toNat < 0x2000 := by
    have hz := z.isLt
    rw [zext16_toNat]
    omega
  obtain ⟨hframe, hstored⟩ := (busWriteStoresOrRedirects s (zext16 z) r hw).2 (.inl hbelow)
  exact ⟨hstored, congrArg (State.withFlags · f) hframe⟩

/-! ## The shifts and rotates -/

theorem aslResult_toNat (v : Byte) : (aslResult v).toNat = v.toNat * 2 % 256 := BitVec.toNat_ofNat _ _

theorem lsrResult_toNat (v : Byte) : (lsrResult v).toNat = v.toNat / 2 := by
  have hv := v.isLt
  rw [lsrResult, BitVec.toNat_ofNat]
  omega

theorem rolResult_toNat (v : Byte) (c0 : Bool) : (rolResult v c0).toNat = (v.toNat * 2 + bitNat c0) % 256 :=
  BitVec.toNat_ofNat _ _

/-- Halving leaves bit 7 free for the carry, so the sum of R107 does not overflow the byte. -/
theorem rorResult_toNat (v : Byte) (c0 : Bool) : (rorResult v c0).toNat = v.toNat / 2 + bitNat c0 * 128 := by
  have hv := v.isLt
  have hc := bitNat_le_one c0
  rw [rorResult, BitVec.toNat_ofNat]
  omega

/-- A shift or rotate: the bit `out` of the operand goes to C, and `res` of the operand and the carry before is stored with
SetZN (47_shift_incdec.md R104 to R107). -/
def opShift (out : Byte → Bool) (res : Byte → Bool → Byte) (s : State) (p : Place) : State :=
  storeZN (setC s (out (loadPlace s p))) p (res (loadPlace s p) s.flags.c)

theorem opAsl_eq_opShift : opAsl = opShift bit7 fun v _ => aslResult v := rfl
theorem opLsr_eq_opShift : opLsr = opShift bit0 fun v _ => lsrResult v := rfl
theorem opRol_eq_opShift : opRol = opShift bit7 rolResult := rfl
theorem opRor_eq_opShift : opRor = opShift bit0 rorResult := rfl

/-- The two forms of a shift or rotate, from what its result byte and the bit that leaves are as numbers. -/
theorem shifts_of_opShift {acc : Instr} {zp : Byte → Instr} {op : State → Place → State} {out : Byte → Bool}
    {res : Byte → Bool → Byte} {result : Nat → Nat → Nat} {carry : Nat → Prop} (hop : op = opShift out res)
    (hacc : ∀ s, exec acc s = .next (op s .acc)) (hzp : ∀ z s, exec (zp z) s = .next (op s (resolveZp z)))
    (hres : ∀ v c0, (res v c0).toNat = result v.toNat (bitNat c0)) (hout : ∀ v, out v = true ↔ carry v.toNat) :
    Shifts acc zp result carry := by
  subst hop
  constructor
  · exact fun s => ⟨_, hacc s, hres s.a s.flags.c, hout s.a, ZNof_setZN _ _, rfl, fun _ => rfl⟩
  · intro s z ea hw hea
    have hexec := hzp z s
    rw [hea, opShift, storeZN_setC_mem] at hexec
    obtain ⟨hstored, hframe⟩ := memWrite_withFlags_spec _ _ hw hea
    exact ⟨_, _, hexec, hres (memRead s ea) s.flags.c, hout (memRead s ea), ZNof_setZN _ _, hstored, hframe⟩

/-- Settles O34: bit 7 leaves ASL and bit 0 leaves LSR, and neither result reads the carry. -/
theorem shiftsMoveABitIntoTheCarry : Obligations.ShiftsMoveABitIntoTheCarry := by
  refine ⟨encoded_encode .aslAcc, fun z => encoded_encode (.aslZp z), encoded_encode .lsrAcc,
    fun z => encoded_encode (.lsrZp z), ?_, ?_⟩
  · exact shifts_of_opShift opAsl_eq_opShift (fun _ => rfl) (fun _ _ => rfl) (fun v _ => aslResult_toNat v) bit7_iff
  · exact shifts_of_opShift opLsr_eq_opShift (fun _ => rfl) (fun _ _ => rfl) (fun v _ => lsrResult_toNat v) bit0_iff

/-- Settles O35: the bits that leave are those of the shifts, and the results take in the carry before. -/
theorem rotatesGoThroughTheCarry : Obligations.RotatesGoThroughTheCarry := by
  refine ⟨encoded_encode .rolAcc, fun z => encoded_encode (.rolZp z), encoded_encode .rorAcc,
    fun z => encoded_encode (.rorZp z), ?_, ?_⟩
  · exact shifts_of_opShift opRol_eq_opShift (fun _ => rfl) (fun _ _ => rfl) rolResult_toNat bit7_iff
  · exact shifts_of_opShift opRor_eq_opShift (fun _ => rfl) (fun _ _ => rfl) rorResult_toNat bit0_iff

/-! ## INC and DEC -/

/-- An instruction that stores a byte at a zero-page address with SetZN changes one cell, Z and N alone. -/
theorem exec_storeZN_resolveZp {i : Instr} {s : State} {z r : Byte} {ea : Word} (hw : Memory.wf s.mem = true)
    (hea : resolveZp z = .mem ea) (h : exec i s = .next (storeZN s (.mem ea) r)) :
    ∃ t, exec i s = .next t ∧ ZNof t.flags r ∧ StoredOnly s t ea r ∧
      t = { s with mem := t.mem, flags := { s.flags with z := t.flags.z, n := t.flags.n } } := by
  rw [storeZN_mem] at h
  obtain ⟨hstored, hframe⟩ := memWrite_withFlags_spec r (s.flags.setZN r) hw hea
  exact ⟨_, h, ZNof_setZN s.flags r, hstored, hframe⟩

/-- Settles O36: both store the byte one up or down at the address they load it from, with SetZN. -/
theorem incAndDecChangeOneByte : Obligations.IncAndDecChangeOneByte := by
  refine ⟨fun z => encoded_encode (.incZp z), fun z => encoded_encode (.decZp z), fun s z ea hw hea => ⟨?_, ?_⟩⟩
  · have hexec : exec (.incZp z) s = .next (opInc s (.mem ea)) := congrArg (Host.Outcome.next <| opInc s ·) hea
    obtain ⟨t, ht, hzn, hstored, hframe⟩ := exec_storeZN_resolveZp hw hea hexec
    exact ⟨t, _, ht, BitVec.toNat_add _ _, hzn, hstored, hframe⟩
  · have hexec : exec (.decZp z) s = .next (opDec s (.mem ea)) := congrArg (Host.Outcome.next <| opDec s ·) hea
    obtain ⟨t, ht, hzn, hstored, hframe⟩ := exec_storeZN_resolveZp hw hea hexec
    exact ⟨t, _, ht, sub_one_toNat _, hzn, hstored, hframe⟩

end Sys2Proof.Machine
end

section
/-! PROOFS. The statements about the length of an instruction (30_encoding.md R51) and about the words that the spec writes
out (section 4); and that BRK alone has its byte. -/

namespace Sys2Proof

/-- The row of an instruction's byte has its mnemonic and format (30_encoding.md R53). -/
theorem tableRow (i : Instr) : Laws.TableRow.Statement i := by
  cases i <;> rfl

/-- Equal bytes have one row, so the opcode byte fixes the mnemonic and the format. -/
theorem format_mnemonic_of_opcode {i j : Instr} (h : i.opcode = j.opcode) :
    i.format = j.format ∧ i.mnemonic = j.mnemonic := by
  have hi := tableRow i
  have hj := tableRow j
  rw [Laws.TableRow.Statement] at hi hj
  rw [h, hj] at hi
  simp only [Option.some.injEq, Prod.mk.injEq] at hi
  obtain ⟨-, hm, hf, -⟩ := hi
  exact ⟨hf.symm, hm.symm⟩

/-- Settles O4: the length is the format's, and the table row of the opcode byte gives the format. -/
theorem lengthIsFixedByTheOpcodeByte : Obligations.LengthIsFixedByTheOpcodeByte := by
  refine ⟨fun i => ⟨(Machine.length_eq_operandBytes i).symm, ?_, ?_, ?_⟩, rfl, fun i j h => ?_⟩
  · rintro (h | h) <;> rw [Instr.length, h, Format.length]
  · rintro (h | h | h | h) <;> rw [Instr.length, h, Format.length]
  · rintro (h | h) <;> rw [Instr.length, h, Format.length]
  · obtain ⟨hf, hm⟩ := format_mnemonic_of_opcode h
    exact ⟨hf, hm, congrArg Format.length hf⟩

/-- Settles O5: each word is the encoding of its instruction, or begins with a byte that has no admitted row. -/
theorem wordsOfTheSpecDecode : Obligations.WordsOfTheSpecDecode :=
  ⟨rfl, rfl, rfl, rfl, rfl, rfl, rfl, rfl, rfl, rfl, rfl, rfl, rfl, rfl, rfl⟩

/-- BRK alone has the byte 0x00. -/
theorem eq_brk_of_opcode {i : Instr} (h : i.opcode = 0x00#8) : i = .brk := by
  obtain ⟨-, hm⟩ := format_mnemonic_of_opcode (j := .brk) h
  cases i with
  | brk => rfl
  | _ => cases hm

end Sys2Proof
end

section
/-! PROOFS. The statements about the step as a whole, whatever the instruction: what it does not read (10_state.md R21 to
R24), when there is one and what ends a run (60_exceptions.md R122 to R126), and the trace record (R24). -/

namespace Sys2Proof.Machine

/-! ## The counter and the logs are not read

A run is followed beside the run from the same state with another counter and other logs. -/

/-- The state with another counter, PPU log and trace. -/
def State.relog (s : State) (k : Nat) (pl : List PpuWrite) (tl : List TraceRecord) : State :=
  { s with icount := k, ppuLog := pl, traceLog := tl }

section
variable (s : State) (k : Nat) (pl : List PpuWrite) (tl : List TraceRecord)

@[simp] theorem relog_candidates : (s.relog k pl tl).candidates = s.candidates := rfl
@[simp] theorem relog_pc : (s.relog k pl tl).pc = s.pc := rfl
@[simp] theorem memRead_relog (b : Word) : memRead (s.relog k pl tl) b = memRead s b := rfl
theorem tick_relog : tick (s.relog k pl tl) = (tick s).relog (k + 1) pl tl := rfl
theorem withPc_relog (pc : Word) : (s.relog k pl tl).withPc pc = (s.withPc pc).relog k pl tl := rfl

/-- Where the byte of a bus write goes does not depend on the log, so the same write is appended to either. -/
theorem memWrite_relog (ea : Word) (v : Byte) : ∃ added, (memWrite s ea v).ppuLog = s.ppuLog ++ added ∧
    ∀ k pl tl, memWrite (s.relog k pl tl) ea v = (memWrite s ea v).relog k (pl ++ added) tl := by
  cases hw : inPpuWindow ea with
  | true =>
    refine ⟨[⟨ppuReg ea, v⟩], by rw [memWrite_redirect s v hw]; rfl, fun k pl tl => ?_⟩
    rw [memWrite_redirect _ v hw, memWrite_redirect _ v hw]
    rfl
  | false =>
    refine ⟨[], by rw [memWrite_plain s v hw, List.append_nil]; rfl, fun k pl tl => ?_⟩
    rw [memWrite_plain _ v hw, memWrite_plain _ v hw, List.append_nil]
    rfl

theorem memWrite_zext16_relog (z v : Byte) :
    memWrite (s.relog k pl tl) (zext16 z) v = (memWrite s (zext16 z) v).relog k pl tl := by
  rw [memWrite_plain _ v (zext16_plain z), memWrite_plain _ v (zext16_plain z)]
  rfl

theorem push_relog (v : Byte) : push (s.relog k pl tl) v = (push s v).relog k pl tl := by
  rw [push_eq, push_eq]
  rfl

theorem pushWord_relog (w : Word) : pushWord (s.relog k pl tl) w = (pushWord s w).relog k pl tl := by
  rw [pushWord_eq, push_relog, push_relog]
  rfl

theorem opBranch_relog (taken : Bool) (off : Byte) :
    opBranch (s.relog k pl tl) taken off = (opBranch s taken off).relog k pl tl := by
  rw [opBranch_eq_withPc, opBranch_eq_withPc]
  rfl

theorem storeZN_zp_relog (z r : Byte) :
    storeZN (s.relog k pl tl) (resolveZp z) r = (storeZN s (resolveZp z) r).relog k pl tl := by
  rw [resolveZp, storeZN_mem, storeZN_mem, memWrite_zext16_relog]
  rfl

/-- An instruction other than STA does the same whatever the counter and the logs are, and leaves them alone. -/
theorem exec_relog_of_ne_sta (i : Instr) (hm : i.mnemonic ≠ .sta) : ∃ t, exec i s = .next t ∧
    exec i (s.relog k pl tl) = .next (t.relog k pl tl) := by
  cases i with
  | staZp _ | staAbs _ | staAbsx _ => exact absurd rfl hm
  | bne _ | beq _ | bpl _ => exact ⟨_, rfl, congrArg Host.Outcome.next (opBranch_relog s k pl tl _ _)⟩
  | pha | php => exact ⟨_, rfl, congrArg Host.Outcome.next (push_relog s k pl tl _)⟩
  | jsr addr =>
    exact ⟨_, rfl, congrArg (Host.Outcome.next <| State.withPc · addr) (pushWord_relog s k pl tl (s.pc - 1#16))⟩
  | incZp _ | decZp _ => exact ⟨_, rfl, congrArg Host.Outcome.next (storeZN_zp_relog s k pl tl _ _)⟩
  | aslZp _ | lsrZp _ | rolZp _ | rorZp _ =>
    exact ⟨_, rfl, congrArg Host.Outcome.next (storeZN_zp_relog (setC s _) k pl tl _ _)⟩
  | _ => exact ⟨_, rfl, rfl⟩

theorem fetchOperands_relog (sh : Shape) :
    fetchOperands (s.relog k pl tl) sh = ((fetchOperands s sh).1, (fetchOperands s sh).2.relog k pl tl) := by
  cases sh <;> rfl
end

/-- An instruction does the same whatever the counter and the logs are, and appends the same PPU writes to either log. -/
theorem exec_relog (i : Instr) (s : State) : ∃ t added, exec i s = .next t ∧ t.ppuLog = s.ppuLog ++ added ∧
    ∀ k pl tl, exec i (s.relog k pl tl) = .next (t.relog k (pl ++ added) tl) := by
  by_cases hm : i.mnemonic = .sta
  · cases i with
    | staZp _ | staAbs _ | staAbsx _ =>
      obtain ⟨added, hadd, hrun⟩ := memWrite_relog s _ s.a
      exact ⟨_, added, rfl, hadd, fun k pl tl => congrArg Host.Outcome.next (hrun k pl tl)⟩
    | _ => cases hm
  · obtain ⟨t, ht⟩ := exec_next i s
    refine ⟨t, [], ht, by rw [exec_ppuLog_of_ne_sta ht hm, List.append_nil], fun k pl tl => ?_⟩
    obtain ⟨u, hu, hrun⟩ := exec_relog_of_ne_sta s k pl tl i hm
    cases ht.symm.trans hu
    rw [hrun, List.append_nil]

/-- Settles O50: the fetch, the instruction and the trace record's place are those of the run with the other counter and
logs, so the two runs end in states that differ in these alone. -/
theorem logsAndCounterAreNeverRead : Obligations.LogsAndCounterAreNeverRead := by
  intro s t k pl tl h
  have hrelog : step (s.relog k pl tl) = _ := step_running (step_cases h).1
  rw [relog_candidates, relog_pc, memRead_relog, tick_relog, withPc_relog] at hrelog
  obtain ⟨-, ⟨hrow, rfl⟩ | ⟨r, v, hrow, hv, rfl⟩⟩ := step_cases h <;> rw [hrow] at hrelog
  · exact ⟨_, [], hrelog, rfl, (List.append_nil _).symm, (List.append_nil _).symm⟩
  · obtain ⟨pc, hpc⟩ := fetchOperands_snd ((tick s).withPc (s.pc + 1#16)) r.shape
    obtain ⟨u, added, hu, hadd, hrun⟩ := exec_relog (fetchOperands ((tick s).withPc (s.pc + 1#16)) r.shape).1
      (fetchOperands ((tick s).withPc (s.pc + 1#16)) r.shape).2
    cases hv.symm.trans hu
    simp only [fetchOperands_relog, hrun, endStep] at hrelog
    rw [hpc] at hadd
    exact ⟨_, added, hrelog, rfl, hadd, rfl⟩

/-! ## When there is a step -/

/-- Settles O8, by the status: the step is the loop's body, or the stop that the status names. -/
theorem stepIsDefinedExactlyWhenRunning : Obligations.StepIsDefinedExactlyWhenRunning := by
  intro s
  cases hs : s.status with
  | running =>
    obtain ⟨t, ht⟩ : ∃ t, step s = .next t := by
      rw [step_running hs]
      cases admittedRow s.candidates (memRead s s.pc) with
      | none => exact ⟨_, rfl⟩
      | some r =>
        obtain ⟨u, hu⟩ := exec_next (fetchOperands ((tick s).withPc (s.pc + 1#16)) r.shape).1
          (fetchOperands ((tick s).withPc (s.pc + 1#16)) r.shape).2
        exact ⟨_, congrArg (endStep _ _) hu⟩
    simp [ht]
  | halted => simp [step, hs]
  | faulted op pc => simp [step, hs]

/-! ## What ends a run -/

/-- An instruction that a running block runs halts it when its byte is BRK's, and leaves it running otherwise. -/
theorem exec_status_of_running {i : Instr} {s t : State} (h : exec i s = .next t) (hs : s.status = .running) :
    i.opcode = 0x00#8 ∧ t.status = .halted ∨ i.opcode ≠ 0x00#8 ∧ t.status = .running := by
  by_cases hop : i.opcode = 0x00#8
  · obtain rfl := eq_brk_of_opcode hop
    cases h
    exact .inl ⟨rfl, rfl⟩
  · obtain hst | ⟨hbrk, -⟩ := exec_status h
    · exact .inr ⟨hop, hst.trans hs⟩
    · exact absurd hbrk hop

/-- BRK's byte has an admitted row, whatever CANDIDATE_OPCODES is: the row is attested (30_encoding.md R53). -/
theorem admittedRow_brk_ne_none (cs : List Byte) : admittedRow cs 0x00#8 ≠ none := by
  rw [← Option.isSome_iff_ne_none, admittedRow_isSome_iff_mem]
  exact .inl (by decide)

/-- Settles O9: the step stopped on a byte with no row, which is not BRK's, or ran the instruction of a byte with one. -/
theorem onlyBrkAndUnmappedBytesStopTheBlock : Obligations.OnlyBrkAndUnmappedBytesStopTheBlock := by
  intro s t h
  obtain ⟨hs, ⟨hrow, rfl⟩ | ⟨r, u, hrow, hu, rfl⟩⟩ := step_cases h
  · have hbrk : memRead s s.pc ≠ 0x00#8 := fun hb => admittedRow_brk_ne_none _ (hb ▸ hrow)
    simp [raiseIllegalOpcode, hbrk, hrow, eq_comm]
  · obtain ⟨hmem, hop, -⟩ := admittedRow_eq_some hrow
    obtain ⟨pc, hpc⟩ := fetchOperands_snd ((tick s).withPc (s.pc + 1#16)) r.shape
    rw [hpc] at hu
    have hst := exec_status_of_running hu hs
    rw [fetchOperands_opcode hmem, hop] at hst
    rcases hst with ⟨hbyte, hst⟩ | ⟨hbyte, hst⟩ <;>
      exact ⟨by simp [hst, hbyte], by simp [hst, hrow]⟩

/-- The decoder reads BRK's byte as BRK, whatever CANDIDATE_OPCODES is and whatever follows (60_exceptions.md R120). -/
theorem decode_brk (cs rest : List Byte) : decode cs (0x00#8 :: rest) = .ok .brk rest :=
  (decodeOfEncodeGivesTheInstruction cs .brk rest).1 rfl

/-- Settles O29: the halt is the meaning, and the step at BRK's byte runs it on the ticked state with PC past the byte. -/
theorem brkHaltsAndChangesNothingElse : Obligations.BrkHaltsAndChangesNothingElse := by
  refine ⟨encoded_encode .brk, fun _ => rfl, fun s hs hb => ?_⟩
  obtain ⟨u, hu, hstep⟩ := stepRunsTheDecodedInstruction s .brk _ hs (hb ▸ decode_brk s.candidates _)
  cases hu
  exact ⟨_, hstep, rfl, fun _ => rfl⟩

/-- Settles O12, by induction on the bound: a running block has a step, which ticks the counter once, and any other is
left as it is. -/
theorem runsEndOnlyByTheRunStatus : Obligations.RunsEndOnlyByTheRunStatus := by
  intro k
  induction k with
  | zero => exact fun s => ⟨s, rfl, fun _ => rfl, fun _ => rfl⟩
  | succ k ih =>
    intro s
    by_cases hs : s.status = .running
    · obtain ⟨u, hu⟩ := (stepIsDefinedExactlyWhenRunning s).1.2 hs
      obtain ⟨t, ht, -, hcount⟩ := ih u
      refine ⟨t, by simp only [runWhileRunning, hs, hu, ht, if_true], fun hn => absurd hs hn, fun hrun => ?_⟩
      rw [hcount hrun, everyStepTicksTheCounterOnce s u hu]
      omega
    · exact ⟨s, by simp only [runWhileRunning, hs, if_false], fun _ => rfl, fun hrun => absurd hrun hs⟩

/-! ## The trace record -/

/-- Settles O11: no instruction writes the trace, and the step ends with the record of the state it leaves. -/
theorem everyStepAppendsOneTraceRecord : Obligations.EveryStepAppendsOneTraceRecord := by
  intro s t h
  obtain ⟨-, ⟨-, rfl⟩ | ⟨i, pc, u, -, hu, rfl⟩⟩ := step_exec_cases h
  · rfl
  · obtain ⟨-, -, -, -, -, -, -, htl, -⟩ := registersHaveOnlyTheirWriters i _ u hu
    rw [appendTrace_traceLog, htl]
    rfl

end Sys2Proof.Machine
end

section
/-! PROOFS. The statements about the loader, the launch and reset (10_state.md R27; 70_reset_and_hazards.md R140 to R146). -/

namespace Sys2Proof.Machine

/-! ## What the loader leaves -/

theorem succ_offset (addr : Word) (k : Nat) :
    addr + 1#16 + BitVec.ofNat 16 k = addr + BitVec.ofNat 16 (k + 1) := by
  rw [BitVec.add_assoc, Nat.add_comm k 1, BitVec.ofNat_add]

/-- The loader leaves every cell alone that it does not name. -/
theorem readByte_storeBytes_outside (m : Memory) {addr b : Word} {bs : List Byte}
    (h : ∀ k, k < bs.length → b ≠ addr + BitVec.ofNat 16 k) :
    Memory.readByte (storeBytes m addr bs) b.toNat = Memory.readByte m b.toNat := by
  induction bs generalizing m addr with
  | nil => rfl
  | cons v bs ih =>
    have hne : b ≠ addr := by simpa using h 0 (Nat.zero_lt_succ _)
    have htail : ∀ k, k < bs.length → b ≠ addr + 1#16 + BitVec.ofNat 16 k := fun k hk =>
      succ_offset addr k ▸ h (k + 1) (Nat.succ_lt_succ hk)
    rw [storeBytes, ih _ htail, Memory.readByte_writeByte_ne _ _ fun he => hne (BitVec.eq_of_toNat_eq he)]

/-- The loader's bytes stand at consecutive addresses modulo 65536; up to 65536 of them, none falls on another
(10_state.md R27). -/
theorem readByte_storeBytes {m : Memory} {addr : Word} {bs : List Byte} {k : Nat} {v : Byte}
    (hw : Memory.wf m = true) (hlen : bs.length ≤ 65536) (hk : bs[k]? = some v) :
    Memory.readByte (storeBytes m addr bs) (addr + BitVec.ofNat 16 k).toNat = v := by
  induction bs generalizing m addr k with
  | nil => cases hk
  | cons b bs ih =>
    rw [List.length_cons] at hlen
    cases k with
    | zero =>
      have hnext : ∀ k, k < bs.length → addr ≠ addr + 1#16 + BitVec.ofNat 16 k := by
        intro k hk
        bv_omega
      obtain rfl : b = v := by simpa using hk
      rw [BitVec.add_zero, storeBytes, readByte_storeBytes_outside _ hnext, Memory.readByte_writeByte_same _ _ hw]
    | succ k =>
      rw [← succ_offset, storeBytes]
      exact ih (Memory.wf_writeByte b addr.isLt hw) (by omega) hk

/-- Settles O42: a launch has the image the loader left, and its PC is the word at the vector. -/
theorem launchReadsTheLoadersBytes : Obligations.LaunchReadsTheLoadersBytes := by
  refine ⟨fun p addr bytes hw hlen => ⟨fun k v hk => ?_, fun b hb => ?_⟩, fun p entry hw => ?_⟩
  · exact readByte_storeBytes hw hlen hk
  · exact readByte_storeBytes_outside p.mem0 hb
  · have hlo : Memory.readByte (loadVector p entry).mem0 0xFFFC = loByte entry :=
      readByte_storeBytes (addr := 0xFFFC#16) (bs := wordBytes entry) (k := 0) hw (by simp [wordBytes]) rfl
    have hhi : Memory.readByte (loadVector p entry).mem0 0xFFFD = hiByte entry :=
      readByte_storeBytes (addr := 0xFFFC#16) (bs := wordBytes entry) (k := 1) hw (by simp [wordBytes]) rfl
    rw [State.launch, hlo, hhi, wordOf_hiByte_loByte]

/-! ## The load hook -/

/-- Admitting an instruction's byte makes it one of the admitted table. -/
theorem wf_admitCandidate (cs : List Byte) (i : Instr) : i.wf (admitCandidate cs i.opcode) = true := by
  have h := wf_candidateBytes i
  simp only [Instr.wf, Bool.or_eq_true, List.contains_iff_mem] at h ⊢
  refine h.imp_right fun hmem => List.mem_filter.mpr ⟨hmem, by simp⟩

/-- What the decoder reads where every candidate is admitted, it reads where the first byte is. -/
theorem decode_admitCandidate {op : Byte} {bytes rest : List Byte} {i : Instr} (cs : List Byte)
    (h : decode candidateBytes (op :: bytes) = .ok i rest) : decode (admitCandidate cs op) (op :: bytes) = .ok i rest := by
  obtain ⟨hbytes, -⟩ := encodeOfDecodeGivesTheBytes _ _ _ _ h
  rw [hbytes]
  exact (decodeOfEncodeGivesTheInstruction _ i rest).1 (opcode_of_decode h ▸ wf_admitCandidate cs i)

theorem decode_of_decodeTableWord {nbits w : Nat} {i : Instr} (h : decodeTableWord nbits w = some i) :
    ∃ rest, decode candidateBytes (tableBytes nbits w) = .ok i rest := by
  unfold decodeTableWord at h
  split at h <;> cases h
  exact ⟨_, ‹_›⟩

/-- The load hook leaves the word's bytes at PC (log entry 10). -/
theorem memRead_withFetchWord {s : State} (nbits w : Nat) (hw : Memory.wf s.mem = true) :
    [memRead (s.withFetchWord nbits w) s.pc, memRead (s.withFetchWord nbits w) (s.pc + 1#16),
      memRead (s.withFetchWord nbits w) (s.pc + 2#16)] = tableBytes nbits w := by
  have hread : ∀ (k : Nat) (v : Byte), (tableBytes nbits w)[k]? = some v →
      memRead (s.withFetchWord nbits w) (s.pc + BitVec.ofNat 16 k) = v :=
    fun k v hk => readByte_storeBytes hw (by simp [tableBytes]) hk
  have hpc := hread 0 _ rfl
  rw [BitVec.add_zero] at hpc
  rw [hpc, hread 1 _ rfl, hread 2 _ rfl]
  rfl

/-- Settles O43: the placed bytes are those at PC, the decoder reads the same instruction from them, and a step of a
running block runs what the decoder reads. -/
theorem placedTableWordIsTheNextInstruction : Obligations.PlacedTableWordIsTheNextInstruction := by
  intro s nbits w i hw h
  obtain ⟨rest, hd⟩ := decode_of_decodeTableWord h
  have hplaced : decode (s.withFetchWord nbits w).candidates (tableBytes nbits w) = .ok i rest :=
    decode_admitCandidate s.candidates hd
  rw [← memRead_withFetchWord nbits w hw] at hplaced
  obtain ⟨u, hu, hstep⟩ := stepRunsTheDecodedInstruction (s.withFetchWord nbits w) i rest rfl hplaced
  exact ⟨_, u, hstep, hu, rfl⟩

/-! ## Reset and launch -/

/-- Settles O40: reset is a write of SP, the flags, PC and the status. -/
theorem resetSetsSpStatusAndPcOnly : Obligations.ResetSetsSpStatusAndPcOnly :=
  fun s => ⟨hostReset s, rfl, rfl, rfl, rfl, wordOf_toNat _ _, rfl, rfl, memRead_hostReset s⟩

/-- Settles O41: reset writes the four fields that the power-on state leaves open, and the launch gives the others. -/
theorem launchIsResetOfThePowerOnState : Obligations.LaunchIsResetOfThePowerOnState := by
  refine ⟨?_, rfl, rfl⟩
  rintro ⟨a0, x0, y0, mem0, cs⟩ ⟨a, x, y, sp, pc, flags, mem, icount, status, ppuLog, traceLog, candidates⟩
  rintro rfl rfl rfl rfl rfl rfl rfl rfl
  rfl

theorem launch_inv {p : Launch} (h : p.wf = true) : (State.launch p).Inv := by
  obtain ⟨hmem, hcs⟩ : Memory.wf p.mem0 = true ∧ candidatesWf p.candidateOpcodes = true := by
    simpa [Launch.wf] using h
  exact ⟨hmem, hcs, fun _ hw => absurd hw List.not_mem_nil, ⟨rfl, fun _ _ hr => by cases hr⟩, trivial⟩

/-- Settles O52: the parameters are well-formed, the logs are empty and the block is running. -/
theorem launchStatesMeetTheInvariant : Obligations.LaunchStatesMeetTheInvariant :=
  ⟨fun _ => launch_inv, launch_inv (by decide)⟩

end Sys2Proof.Machine
end

section
/-! PROOFS. The statements about the flags: the flag instructions (48_flag_ops.md) and the table of each flag's writers
(10_state.md section 3). -/

namespace Sys2Proof.Machine

/-! ## The flag instructions -/

/-- A byte with bit 5 set is the packed status of the flags it unpacks to (10_state.md R18 to R20). -/
theorem pack_eq_of_unpack {f : Flags} {b : Byte} (h : unpack b = f) (h5 : b.getLsbD 5 = true) : pack f = b := by
  have hmask : 0x20#8 = BitVec.twoPow 8 5 := rfl
  rw [← h, pack_unpack]
  refine BitVec.eq_of_getLsbD_eq fun k hk => ?_
  rw [BitVec.getLsbD_or, hmask, BitVec.getLsbD_twoPow]
  by_cases hk5 : k = 5
  · simp [hk5, h5]
  · simp [Ne.symm hk5]

/-- Setting bits of a packed status leaves bit 5 set, so the byte is the packed status of the flags with these set. -/
theorem pack_eq_or {f g : Flags} {m : Byte} (h : unpack (pack f ||| m) = g) : pack g = pack f ||| m := by
  obtain ⟨-, -, h5, -⟩ := getLsbD_pack f
  exact pack_eq_of_unpack h (by rw [BitVec.getLsbD_or, h5, Bool.true_or])

/-- Clearing bits of a packed status other than bit 5 gives the packed status of the flags with these cleared. -/
theorem pack_eq_and {f g : Flags} {m : Byte} (h : unpack (pack f &&& m) = g) (hm : m.getLsbD 5 = true) :
    pack g = pack f &&& m := by
  obtain ⟨-, -, h5, -⟩ := getLsbD_pack f
  exact pack_eq_of_unpack h (by rw [BitVec.getLsbD_and, h5, hm, Bool.true_and])

theorem unpack_pack_or (f : Flags) (m : Byte) : unpack (pack f ||| m) =
    { n := f.n || m.getLsbD 7, v := f.v || m.getLsbD 6, b := f.b || m.getLsbD 4, d := f.d || m.getLsbD 3,
      i := f.i || m.getLsbD 2, z := f.z || m.getLsbD 1, c := f.c || m.getLsbD 0 } := by
  obtain ⟨hn, hv, -, hb, hd, hi, hz, hc⟩ := getLsbD_pack f
  simp only [unpack, BitVec.getLsbD_or, hn, hv, hb, hd, hi, hz, hc]

theorem unpack_pack_and (f : Flags) (m : Byte) : unpack (pack f &&& m) =
    { n := f.n && m.getLsbD 7, v := f.v && m.getLsbD 6, b := f.b && m.getLsbD 4, d := f.d && m.getLsbD 3,
      i := f.i && m.getLsbD 2, z := f.z && m.getLsbD 1, c := f.c && m.getLsbD 0 } := by
  obtain ⟨hn, hv, -, hb, hd, hi, hz, hc⟩ := getLsbD_pack f
  simp only [unpack, BitVec.getLsbD_and, hn, hv, hb, hd, hi, hz, hc]

/-- An instruction that is a write of the flags changes nothing else. -/
theorem exec_withFlags {i : Instr} {s : State} {f : Flags} {b : Byte} (h : exec i s = .next (s.withFlags f))
    (hb : pack f = b) :
    ∃ t, exec i s = .next t ∧ t = { s with flags := f } ∧ SameMemory s t ∧ pack t.flags = b :=
  ⟨_, h, rfl, fun _ => rfl, hb⟩

/-- Settles O37: each is a write of one flag, and the mask of its bit sets or clears that flag in the packed status. -/
theorem flagInstructionsWriteOneBit : Obligations.FlagInstructionsWriteOneBit := by
  refine ⟨encoded_encode .sec, encoded_encode .clc, encoded_encode .sei, encoded_encode .cli, encoded_encode .sed,
    encoded_encode .cld, encoded_encode .clv, fun s => ⟨?_, ?_, ?_, ?_, ?_, ?_, ?_⟩⟩
  · exact exec_withFlags rfl (pack_eq_or (by simp [unpack_pack_or]))
  · exact exec_withFlags rfl (pack_eq_and (by simp [unpack_pack_and]) rfl)
  · exact exec_withFlags rfl (pack_eq_or (by simp [unpack_pack_or]))
  · exact exec_withFlags rfl (pack_eq_and (by simp [unpack_pack_and]) rfl)
  · exact exec_withFlags rfl (pack_eq_or (by simp [unpack_pack_or]))
  · exact exec_withFlags rfl (pack_eq_and (by simp [unpack_pack_and]) rfl)
  · exact exec_withFlags rfl (pack_eq_and (by simp [unpack_pack_and]) rfl)

/-! ## The writers of each flag -/

/-- What an instruction does to the flags, with the values left open, and the mnemonics that do it (10_state.md
section 3). -/
inductive FlagEffect (i : Instr) (f : Flags) : Flags → Prop where
  | none : FlagEffect i f f
  | zeroNegative (v : Byte)
      (h : i.mnemonic ∈ [Mnemonic.lda, .and, .ora, .eor, .pla, .txa, .tya, .tax, .tay, .inc, .dec]) :
      FlagEffect i f (f.setZN v)
  | carryZeroNegative (c : Bool) (v : Byte) (h : i.mnemonic ∈ [Mnemonic.cmp, .asl, .lsr, .rol, .ror]) :
      FlagEffect i f ((f.withC c).setZN v)
  | arithmetic (c o : Bool) (v : Byte) (h : i.mnemonic ∈ [Mnemonic.adc, .sbc]) :
      FlagEffect i f (((f.withC c).withV o).setZN v)
  | carry (c : Bool) (h : i.mnemonic ∈ [Mnemonic.sec, .clc]) : FlagEffect i f (f.withC c)
  | interrupt (w : Bool) (h : i.mnemonic ∈ [Mnemonic.sei, .cli]) : FlagEffect i f (f.withI w)
  | decimal (w : Bool) (h : i.mnemonic ∈ [Mnemonic.sed, .cld]) : FlagEffect i f (f.withD w)
  | overflow (w : Bool) (h : i.mnemonic = .clv) : FlagEffect i f (f.withV w)
  | unpacked (g : Flags) (h : i.mnemonic = .plp) : FlagEffect i f g

theorem opBranch_flags (s : State) (taken : Bool) (off : Byte) : (opBranch s taken off).flags = s.flags := by
  rw [opBranch_eq_withPc, State.withPc_flags]

theorem store_flags (s : State) (p : Place) (v : Byte) : (store s p v).flags = s.flags := by
  cases p with
  | mem ea => exact memWrite_flags s ea v
  | acc => rfl

theorem storeZN_flags (s : State) (p : Place) (r : Byte) : (storeZN s p r).flags = s.flags.setZN r :=
  congrArg (Flags.setZN · r) (store_flags s p r)

theorem pushWord_flags (s : State) (w : Word) : (pushWord s w).flags = s.flags := by
  rw [pushWord_eq, push_flags, push_flags]

/-- Every instruction has one of the effects on the flags. -/
theorem flagEffect_of_exec {i : Instr} {s t : State} (h : exec i s = .next t) : FlagEffect i s.flags t.flags := by
  cases i <;> cases h
  case staZp | staAbs | staAbsx => exact (store_flags s _ s.a).symm ▸ .none
  case bne | beq | bpl => exact (opBranch_flags s _ _).symm ▸ .none
  case pha | php => exact (push_flags s _).symm ▸ .none
  case jsr => exact (pushWord_flags s _).symm ▸ .none
  case jmp | rts | txs | brk => exact .none
  case ldaZp | ldaImm | ldaAbs | ldaZpx | andZp | andImm | andAbs | oraZp | oraImm | oraAbs | eorZp | eorImm | eorAbs
      | txa | tya | tax | tay | pla =>
    exact .zeroNegative _ (by simp [Instr.mnemonic])
  case incZp | decZp => exact (storeZN_flags s _ _).symm ▸ .zeroNegative _ (by simp [Instr.mnemonic])
  case cmpZp | cmpImm | cmpAbs => exact .carryZeroNegative _ _ (by simp [Instr.mnemonic])
  case aslZp | aslAcc | lsrZp | lsrAcc | rolZp | rolAcc | rorZp | rorAcc =>
    exact (storeZN_flags (setC s _) _ _).symm ▸ .carryZeroNegative _ _ (by simp [Instr.mnemonic])
  case adcZp | adcImm | adcAbs | sbcZp | sbcImm | sbcAbs => exact .arithmetic _ _ _ (by simp [Instr.mnemonic])
  case sec | clc => exact .carry _ (by simp [Instr.mnemonic])
  case sei | cli => exact .interrupt _ (by simp [Instr.mnemonic])
  case sed | cld => exact .decimal _ (by simp [Instr.mnemonic])
  case clv => exact .overflow _ rfl
  case plp => exact .unpacked _ rfl

/-- A clause about the instructions outside `l'` says nothing of one in a part `l` of it. -/
theorem elim_of_subset {m : Mnemonic} {l l' : List Mnemonic} {p : Prop} (hm : m ∈ l) (hn : m ∉ l')
    (hsub : l ⊆ l' := by decide) : p :=
  absurd (hsub hm) hn

/-- Settles O48, by the effect on the flags: those that it does not write are those of the state before. -/
theorem flagsHaveOnlyTheirWriters : Obligations.FlagsHaveOnlyTheirWriters := by
  intro i s t h
  generalize hg : t.flags = g
  have he : FlagEffect i s.flags g := hg ▸ flagEffect_of_exec h
  cases he with
  | none => simp
  | zeroNegative v hm =>
    exact ⟨fun hn => elim_of_subset hm hn, fun _ => rfl, fun _ => rfl, fun _ => rfl, fun _ => rfl, fun _ => rfl⟩
  | carryZeroNegative c v hm =>
    exact ⟨fun hn => elim_of_subset hm hn, fun _ => rfl, fun _ => rfl, fun _ => rfl, fun _ => rfl,
      fun hn => elim_of_subset hm hn⟩
  | arithmetic c o v hm =>
    exact ⟨fun hn => elim_of_subset hm hn, fun hn => elim_of_subset hm hn, fun _ => rfl,
      fun _ => rfl, fun _ => rfl, fun hn => elim_of_subset hm hn⟩
  | carry c hm =>
    exact ⟨fun _ => ⟨rfl, rfl⟩, fun _ => rfl, fun _ => rfl, fun _ => rfl, fun _ => rfl,
      fun hn => elim_of_subset hm hn⟩
  | interrupt w hm =>
    exact ⟨fun _ => ⟨rfl, rfl⟩, fun _ => rfl, fun _ => rfl, fun _ => rfl, fun hn => elim_of_subset hm hn,
      fun _ => rfl⟩
  | decimal w hm =>
    exact ⟨fun _ => ⟨rfl, rfl⟩, fun _ => rfl, fun _ => rfl, fun hn => elim_of_subset hm hn, fun _ => rfl,
      fun _ => rfl⟩
  | overflow w hm => simp [hm]
  | unpacked g hm => simp [hm]

end Sys2Proof.Machine
end
